-- ==== Sys2Proof/Word.lean ====
section
/-! DEFINITION. The widths the spec gives the machine's data (00_scope.md R5, R9, R10; 10_state.md R11). -/

namespace Sys2Proof

/-- One byte of memory or one general register (R12, R30). -/
abbrev Byte := BitVec 8

/-- An instruction word, and the width of I, PC and a stack slot (R14, R15, R16, R46). -/
abbrev Word := BitVec 16

/-- One hexadecimal digit of an instruction word (R10). -/
abbrev Nibble := BitVec 4

/-- The 12-bit address field NNN (R47). -/
abbrev Addr12 := BitVec 12

/-- The index of a general register, 0..15 (R12, R49). -/
abbrev RegIdx := Fin 16

/-- The index of a key, 0x0..0xF (R21, R103). -/
abbrev KeyIdx := Fin 16

/-- VF, general register 15, the flag register (R13). -/
abbrev VF : RegIdx := 15

end Sys2Proof
end

