-- ==== Sys2Proof/Machine/Flags.lean ====
section
/-! DEFINITION. Every value written to VF as a flag (10_state.md R13). -/

namespace Sys2Proof.Machine

/-- A flag is 0x00 or 0x01 (R13). -/
def flagByte (b : Bool) : Byte := if b then 1 else 0

/-- 8XY4: 1 iff a + b > 255 (R78). -/
def carryFlag (a b : Byte) : Byte := flagByte (decide (a.toNat + b.toNat > 255))

/-- 8XY5 on (V[X], V[Y]) and 8XY7 on (V[Y], V[X]): 1 iff a - b needs no borrow (R79, R81). -/
def noBorrowFlag (a b : Byte) : Byte := flagByte (decide (a.toNat ≥ b.toNat))

/-- 8XY6: the bit shifted out at the low end (R80). -/
def lowBitFlag (b : Byte) : Byte := flagByte (b.getLsbD 0)

/-- 8XYE: the bit shifted out at the high end (R82). -/
def highBitFlag (b : Byte) : Byte := flagByte (b.getLsbD 7)

end Sys2Proof.Machine
end

