-- ==== Sys2Proof/Syntax.lean ====
section
/-! DEFINITION. The 34 instructions of the opcode map (30_encoding.md R51), one constructor per row in the table's order.
The source names an instruction by its pattern only; a constructor's name follows the alias of R51. -/

namespace Sys2Proof

/-- An instruction with its operand fields (R47, R49). All fields are unsigned. -/
inductive Instr where
  /-- 00E0 (CLS): clear the display, R93. -/
  | cls
  /-- 00EE (RET): return from a subroutine, R61. -/
  | ret
  /-- 1NNN (JP NNN): jump, R62. -/
  | jp (nnn : Addr12)
  /-- 2NNN (CALL NNN): call, R63. -/
  | call (nnn : Addr12)
  /-- 3XNN (SE VX, NN): skip if V[X] = NN, R64. -/
  | seImm (x : RegIdx) (nn : Byte)
  /-- 4XNN (SNE VX, NN): skip if V[X] ≠ NN, R65. -/
  | sneImm (x : RegIdx) (nn : Byte)
  /-- 5XY0 (SE VX, VY): skip if V[X] = V[Y], R66. -/
  | seReg (x y : RegIdx)
  /-- 9XY0 (SNE VX, VY): skip if V[X] ≠ V[Y], R67. -/
  | sneReg (x y : RegIdx)
  /-- 6XNN (LD VX, NN): V[X] becomes NN, R72. -/
  | ldImm (x : RegIdx) (nn : Byte)
  /-- 7XNN (ADD VX, NN): add NN, no flag, R73. -/
  | addImm (x : RegIdx) (nn : Byte)
  /-- 8XY0 (LD VX, VY): copy, R74. -/
  | ldReg (x y : RegIdx)
  /-- 8XY1 (OR VX, VY), R75. -/
  | orReg (x y : RegIdx)
  /-- 8XY2 (AND VX, VY), R76. -/
  | andReg (x y : RegIdx)
  /-- 8XY3 (XOR VX, VY), R77. -/
  | xorReg (x y : RegIdx)
  /-- 8XY4 (ADD VX, VY): add, VF is the carry, R78. -/
  | addReg (x y : RegIdx)
  /-- 8XY5 (SUB VX, VY): V[X] - V[Y], VF is no-borrow, R79. -/
  | subReg (x y : RegIdx)
  /-- 8XY6 (SHR VX, VY): shift right by one, VF is the bit out, R80. -/
  | shr (x y : RegIdx)
  /-- 8XY7 (SUBN VX, VY): V[Y] - V[X], VF is no-borrow, R81. -/
  | subnReg (x y : RegIdx)
  /-- 8XYE (SHL VX, VY): shift left by one, VF is the bit out, R82. -/
  | shl (x y : RegIdx)
  /-- ANNN (LD I, NNN): I becomes NNN, R85. -/
  | ldI (nnn : Addr12)
  /-- BNNN (JP V0, NNN): jump to NNN + V[0], R68. -/
  | jpV0 (nnn : Addr12)
  /-- CXNN (RND VX, NN): random byte AND NN, R83. -/
  | rnd (x : RegIdx) (nn : Byte)
  /-- DXYN (DRW VX, VY, N): draw a sprite of N rows, R94. N is a row count. -/
  | drw (x y : RegIdx) (n : Nat)
  /-- EX9E (SKP VX): skip if key V[X] is pressed, R97. -/
  | skp (x : RegIdx)
  /-- EXA1 (SKNP VX): skip if key V[X] is not pressed, R98. -/
  | sknp (x : RegIdx)
  /-- FX07 (LD VX, DT): read the delay timer, R100. -/
  | ldVxDt (x : RegIdx)
  /-- FX15 (LD DT, VX): write the delay timer, R101. -/
  | ldDtVx (x : RegIdx)
  /-- FX18 (LD ST, VX): write the sound timer, R102. -/
  | ldStVx (x : RegIdx)
  /-- FX0A (LD VX, K): wait for a key, R99. -/
  | ldVxK (x : RegIdx)
  /-- FX1E (ADD I, VX): add V[X] to I, R86. -/
  | addI (x : RegIdx)
  /-- FX29 (LD F, VX): I becomes the address of a glyph, R87. -/
  | ldF (x : RegIdx)
  /-- FX33 (LD B, VX): store the decimal digits of V[X], R88. -/
  | ldB (x : RegIdx)
  /-- FX55 (LD [I], VX): store V[0]..V[X], R89. -/
  | storeRegs (x : RegIdx)
  /-- FX65 (LD VX, [I]): load V[0]..V[X], R90. -/
  | loadRegs (x : RegIdx)
deriving DecidableEq, Repr

end Sys2Proof
end

