-- ==== Sys2Proof/Decode.lean ====
section
/-! DEFINITION. Fields, decoding (30_encoding.md R46 to R54), the opcode map of R51 as a table, and the encoder. -/

namespace Sys2Proof

/-! ## Fields of the instruction word (R47) -/

/-- T = op[15:12], the family nibble. -/
def fieldT (op : Word) : Nibble := op.extractLsb' 12 4

/-- The nibble op[11:8]. -/
def nibbleX (op : Word) : Nibble := op.extractLsb' 8 4

/-- The nibble op[7:4]. -/
def nibbleY (op : Word) : Nibble := op.extractLsb' 4 4

/-- N = op[3:0]. -/
def fieldN (op : Word) : Nibble := op.extractLsb' 0 4

/-- NN = op[7:0]. -/
def fieldNN (op : Word) : Byte := op.extractLsb' 0 8

/-- NNN = op[11:0]. -/
def fieldNNN (op : Word) : Addr12 := op.extractLsb' 0 12

/-- A nibble as the index of a register: all sixteen values are valid (R49). -/
def regIdx (b : Nibble) : RegIdx := ⟨b.toNat, b.isLt⟩

/-- X = op[11:8] as a register index. -/
def fieldX (op : Word) : RegIdx := regIdx (nibbleX op)

/-- Y = op[7:4] as a register index. -/
def fieldY (op : Word) : RegIdx := regIdx (nibbleY op)

/-! ## Decode (R50) -/

/-- Family 8: N selects among nine register-register operations (R50, R52). -/
def decodeAlu (op : Word) : Option Instr :=
  let x := fieldX op
  let y := fieldY op
  match (fieldN op).toNat with
  | 0x0 => some (.ldReg x y)
  | 0x1 => some (.orReg x y)
  | 0x2 => some (.andReg x y)
  | 0x3 => some (.xorReg x y)
  | 0x4 => some (.addReg x y)
  | 0x5 => some (.subReg x y)
  | 0x6 => some (.shr x y)
  | 0x7 => some (.subnReg x y)
  | 0xE => some (.shl x y)
  | _ => none

/-- Family 0: two whole words (R50, R53). -/
def decodeZero (op : Word) : Option Instr :=
  if op = 0x00E0 then some .cls else if op = 0x00EE then some .ret else none

/-- Family E: NN selects between the two key skips (R50). -/
def decodeKey (op : Word) : Option Instr :=
  match (fieldNN op).toNat with
  | 0x9E => some (.skp (fieldX op))
  | 0xA1 => some (.sknp (fieldX op))
  | _ => none

/-- Family F: NN selects among nine instructions (R50). -/
def decodeMisc (op : Word) : Option Instr :=
  let x := fieldX op
  match (fieldNN op).toNat with
  | 0x07 => some (.ldVxDt x)
  | 0x0A => some (.ldVxK x)
  | 0x15 => some (.ldDtVx x)
  | 0x18 => some (.ldStVx x)
  | 0x1E => some (.addI x)
  | 0x29 => some (.ldF x)
  | 0x33 => some (.ldB x)
  | 0x55 => some (.storeRegs x)
  | 0x65 => some (.loadRegs x)
  | _ => none

/-- The decode procedure of R50, a function of the word alone; `none` is its Unknown (R53; log 21). -/
def decode (op : Word) : Option Instr :=
  let x := fieldX op
  let y := fieldY op
  match (fieldT op).toNat with
  | 0x0 => decodeZero op
  | 0x1 => some (.jp (fieldNNN op))
  | 0x2 => some (.call (fieldNNN op))
  | 0x3 => some (.seImm x (fieldNN op))
  | 0x4 => some (.sneImm x (fieldNN op))
  | 0x5 => if fieldN op = 0 then some (.seReg x y) else none
  | 0x6 => some (.ldImm x (fieldNN op))
  | 0x7 => some (.addImm x (fieldNN op))
  | 0x8 => decodeAlu op
  | 0x9 => if fieldN op = 0 then some (.sneReg x y) else none
  | 0xA => some (.ldI (fieldNNN op))
  | 0xB => some (.jpV0 (fieldNNN op))
  | 0xC => some (.rnd x (fieldNN op))
  | 0xD => some (.drw x y (fieldN op).toNat)
  | 0xE => decodeKey op
  | 0xF => decodeMisc op
  | _ => none

/-- Why bytes are no instruction. -/
inductive DecodeError where
  /-- Fewer than the two bytes of an instruction (R46). -/
  | truncated
  /-- The word matches no row of the opcode map (R53). -/
  | unknownOpcode (op : Word)
deriving DecidableEq, Repr

/-- The word whose first byte is `hi` (R33). -/
def wordOfBytes (hi lo : Byte) : Word := hi ++ lo

/-- The bytes of a word as memory holds them, high byte first (R33). -/
def bytesOfWord (op : Word) : List Byte := [op.extractLsb' 8 8, op.extractLsb' 0 8]

/-- Decoding of the bytes at an address: the instruction and the bytes after it, or the reason there is none. -/
def decodeBytes : List Byte → Except DecodeError (Instr × List Byte)
  | hi :: lo :: rest =>
    match decode (wordOfBytes hi lo) with
    | some i => .ok (i, rest)
    | none => .error (.unknownOpcode (wordOfBytes hi lo))
  | _ => .error .truncated

/-- The word whose bits the opcode table numbers `w`, bits from `nbits` up being zero. -/
def tableWord (nbits w : Nat) : Word := BitVec.ofNat 16 (w % 2 ^ nbits)

/-- What the decoder reads from the bytes of a word numbered as spec/opcode_table.json numbers it. -/
def decodeTableWord (nbits w : Nat) : Option Instr :=
  match decodeBytes (bytesOfWord (tableWord nbits w)) with
  | .ok (i, _) => some i
  | .error _ => none

/-! ## Encode -/

/-- A register index as the nibble that selects it. -/
def nib (x : RegIdx) : Nibble := BitVec.ofNat 4 x.val

/-- Format FA: T and NNN (R48). -/
def wordFA (t : Nibble) (nnn : Addr12) : Word := t ++ nnn

/-- Format FXB, and format FX with its sub-opcode for NN: T, X, NN (R48). -/
def wordFXB (t : Nibble) (x : RegIdx) (nn : Byte) : Word := t ++ nib x ++ nn

/-- Format FXY with its sub-opcode for N, and format FXYN: T, X, Y, N (R48). -/
def wordFXY (t : Nibble) (x y : RegIdx) (n : Nibble) : Word := t ++ nib x ++ nib y ++ n

/-- The word of a well-formed instruction (R48, R51). -/
def encode : Instr → Word
  | .cls => 0x00E0
  | .ret => 0x00EE
  | .jp nnn => wordFA 0x1 nnn
  | .call nnn => wordFA 0x2 nnn
  | .seImm x nn => wordFXB 0x3 x nn
  | .sneImm x nn => wordFXB 0x4 x nn
  | .seReg x y => wordFXY 0x5 x y 0x0
  | .sneReg x y => wordFXY 0x9 x y 0x0
  | .ldImm x nn => wordFXB 0x6 x nn
  | .addImm x nn => wordFXB 0x7 x nn
  | .ldReg x y => wordFXY 0x8 x y 0x0
  | .orReg x y => wordFXY 0x8 x y 0x1
  | .andReg x y => wordFXY 0x8 x y 0x2
  | .xorReg x y => wordFXY 0x8 x y 0x3
  | .addReg x y => wordFXY 0x8 x y 0x4
  | .subReg x y => wordFXY 0x8 x y 0x5
  | .shr x y => wordFXY 0x8 x y 0x6
  | .subnReg x y => wordFXY 0x8 x y 0x7
  | .shl x y => wordFXY 0x8 x y 0xE
  | .ldI nnn => wordFA 0xA nnn
  | .jpV0 nnn => wordFA 0xB nnn
  | .rnd x nn => wordFXB 0xC x nn
  | .drw x y n => wordFXY 0xD x y (BitVec.ofNat 4 n)
  | .skp x => wordFXB 0xE x 0x9E
  | .sknp x => wordFXB 0xE x 0xA1
  | .ldVxDt x => wordFXB 0xF x 0x07
  | .ldDtVx x => wordFXB 0xF x 0x15
  | .ldStVx x => wordFXB 0xF x 0x18
  | .ldVxK x => wordFXB 0xF x 0x0A
  | .addI x => wordFXB 0xF x 0x1E
  | .ldF x => wordFXB 0xF x 0x29
  | .ldB x => wordFXB 0xF x 0x33
  | .storeRegs x => wordFXB 0xF x 0x55
  | .loadRegs x => wordFXB 0xF x 0x65

/-- The two bytes of a well-formed instruction, first byte first. -/
def encodeBytes (i : Instr) : List Byte := bytesOfWord (encode i)

/-! ## The opcode map as a table (R51) -/

/-- One row of R51: a word is the row's instruction iff its bits under `mask` are `pattern`. -/
structure OpcodeRow where
  name : String
  mask : Word
  pattern : Word
deriving DecidableEq, Repr

/-- R51, rows 1 to 34. -/
def opcodeTable : List OpcodeRow :=
  [⟨"00E0", 0xFFFF, 0x00E0⟩, ⟨"00EE", 0xFFFF, 0x00EE⟩, ⟨"1NNN", 0xF000, 0x1000⟩, ⟨"2NNN", 0xF000, 0x2000⟩,
   ⟨"3XNN", 0xF000, 0x3000⟩, ⟨"4XNN", 0xF000, 0x4000⟩, ⟨"5XY0", 0xF00F, 0x5000⟩, ⟨"9XY0", 0xF00F, 0x9000⟩] ++
  [⟨"6XNN", 0xF000, 0x6000⟩, ⟨"7XNN", 0xF000, 0x7000⟩, ⟨"8XY0", 0xF00F, 0x8000⟩, ⟨"8XY1", 0xF00F, 0x8001⟩,
   ⟨"8XY2", 0xF00F, 0x8002⟩, ⟨"8XY3", 0xF00F, 0x8003⟩, ⟨"8XY4", 0xF00F, 0x8004⟩, ⟨"8XY5", 0xF00F, 0x8005⟩,
   ⟨"8XY6", 0xF00F, 0x8006⟩, ⟨"8XY7", 0xF00F, 0x8007⟩, ⟨"8XYE", 0xF00F, 0x800E⟩] ++
  [⟨"ANNN", 0xF000, 0xA000⟩, ⟨"BNNN", 0xF000, 0xB000⟩, ⟨"CXNN", 0xF000, 0xC000⟩, ⟨"DXYN", 0xF000, 0xD000⟩,
   ⟨"EX9E", 0xF0FF, 0xE09E⟩, ⟨"EXA1", 0xF0FF, 0xE0A1⟩] ++
  [⟨"FX07", 0xF0FF, 0xF007⟩, ⟨"FX15", 0xF0FF, 0xF015⟩, ⟨"FX18", 0xF0FF, 0xF018⟩, ⟨"FX0A", 0xF0FF, 0xF00A⟩,
   ⟨"FX1E", 0xF0FF, 0xF01E⟩, ⟨"FX29", 0xF0FF, 0xF029⟩, ⟨"FX33", 0xF0FF, 0xF033⟩, ⟨"FX55", 0xF0FF, 0xF055⟩,
   ⟨"FX65", 0xF0FF, 0xF065⟩]

/-- The pattern by which the spec names an instruction (R51). -/
def patternName : Instr → String
  | .cls => "00E0" | .ret => "00EE" | .jp _ => "1NNN" | .call _ => "2NNN"
  | .seImm _ _ => "3XNN" | .sneImm _ _ => "4XNN" | .seReg _ _ => "5XY0" | .sneReg _ _ => "9XY0"
  | .ldImm _ _ => "6XNN" | .addImm _ _ => "7XNN" | .ldReg _ _ => "8XY0" | .orReg _ _ => "8XY1"
  | .andReg _ _ => "8XY2" | .xorReg _ _ => "8XY3" | .addReg _ _ => "8XY4" | .subReg _ _ => "8XY5"
  | .shr _ _ => "8XY6" | .subnReg _ _ => "8XY7" | .shl _ _ => "8XYE" | .ldI _ => "ANNN"
  | .jpV0 _ => "BNNN" | .rnd _ _ => "CXNN" | .drw _ _ _ => "DXYN" | .skp _ => "EX9E" | .sknp _ => "EXA1"
  | .ldVxDt _ => "FX07" | .ldDtVx _ => "FX15" | .ldStVx _ => "FX18" | .ldVxK _ => "FX0A"
  | .addI _ => "FX1E" | .ldF _ => "FX29" | .ldB _ => "FX33" | .storeRegs _ => "FX55" | .loadRegs _ => "FX65"

end Sys2Proof
end

