-- ==== Sys2Proof/Config.lean ====
section
/-! DEFINITION. What is fixed for the life of a core: the parameters the source fixes (00_scope.md R5), the type of the
four it leaves open (R6), and the random source, which nothing fixes (48_host_commands.md R113). -/

namespace Sys2Proof.Config

/-- MEM_SIZE: addresses 0x000..0xFFF (R5). -/
abbrev memSize : Nat := 4096

/-- PROGRAM_BASE: where LOAD puts the image, and PC after RESET (R5). -/
abbrev programBase : Nat := 0x200

/-- MAX_PROGRAM: the longest image LOAD takes (R5). -/
abbrev maxProgram : Nat := 0xE00

/-- GLYPH_COUNT * GLYPH_BYTES, the size of the font (R5). -/
abbrev fontSize : Nat := 80

/-- The open parameters of R6. A model "should take each as a configuration argument": a value of this type stands in
`Machine.State.cfg`, so that every statement over all states is a statement for all parameters (log 1). -/
structure Params where
  /-- FONT_BASE, 0x000..0x1B0. -/
  fontBase : Fin 0x1B1
  /-- FONT_DATA: sixteen glyphs of five bytes, in ascending digit order (R19). -/
  fontData : Vector (Vector Byte 5) 16
  /-- SHIFT_USES_VY: whether 8XY6 and 8XYE shift V[Y] rather than V[X]. -/
  shiftUsesVY : Bool
  /-- LDST_INCREMENTS_I: whether FX55 and FX65 add X + 1 to I. -/
  ldstIncrementsI : Bool
deriving DecidableEq, Repr

/-- The random source: the byte that answers the CXNN executed after `n` earlier ones (R113). A FREE VALUE: it has no
body, so nothing can be proved of any of its values (log 7). -/
opaque randomByte : Nat → Byte

end Sys2Proof.Config
end

