-- ==== Sys2Proof/Machine/Params.lean ====
section
/-! DEFINITION. The defaults of the four open parameters (00_scope.md R6), which `State.reset` starts with. Statements
over all states do not rest on them (log 1). -/

namespace Sys2Proof.Machine

open Sys2Proof.Config

/-- The default FONT_DATA: the table of 10_state.md R19, row 0 first. PRESUMED: the spec itself marks these bytes as
general knowledge (D7, G1); log 3. -/
def defaultFont : Vector (Vector Byte 5) 16 :=
  #v[#v[0xF0, 0x90, 0x90, 0x90, 0xF0], #v[0x20, 0x60, 0x20, 0x20, 0x70],
     #v[0xF0, 0x10, 0xF0, 0x80, 0xF0], #v[0xF0, 0x10, 0xF0, 0x10, 0xF0],
     #v[0x90, 0x90, 0xF0, 0x10, 0x10], #v[0xF0, 0x80, 0xF0, 0x10, 0xF0],
     #v[0xF0, 0x80, 0xF0, 0x90, 0xF0], #v[0xF0, 0x10, 0x20, 0x40, 0x40],
     #v[0xF0, 0x90, 0xF0, 0x90, 0xF0], #v[0xF0, 0x90, 0xF0, 0x10, 0xF0],
     #v[0xF0, 0x90, 0xF0, 0x90, 0x90], #v[0xE0, 0x90, 0xE0, 0x90, 0xE0],
     #v[0xF0, 0x80, 0x80, 0x80, 0xF0], #v[0xE0, 0x90, 0x90, 0x90, 0xE0],
     #v[0xF0, 0x80, 0xF0, 0x80, 0xF0], #v[0xF0, 0x80, 0xF0, 0x80, 0x80]]

/-- FONT_BASE = 0x000 (D6, log 2), FONT_DATA the customary font (D7, log 3), SHIFT_USES_VY = false (D14, log 4),
LDST_INCREMENTS_I = false (D18, log 5): the defaults of R6. -/
def defaultParams : Params where
  fontBase := 0
  fontData := defaultFont
  shiftUsesVY := false
  ldstIncrementsI := false

end Sys2Proof.Machine
end

