-- ==== Sys2Proof/Machine/State.lean ====
section
/-! DEFINITION. The state of the core (10_state.md R11), what can stop a step, and the state after RESET (R24). -/

namespace Sys2Proof.Machine

open Sys2Proof.Config

/-- Memory M: the bytes that differ from what RESET leaves, as (address, byte) pairs in rising order of address. What an
unlisted address reads as, and the canonical form, are in Machine/Ops.lean (`resetByte`, `Memory.wf`). -/
abbrev Memory := List Host.Cell

/-- The display buffer D: 32 rows of 64 pixels, `true` is on (R20). -/
abbrev Display := Vector (Vector Bool 64) 32

/-- One event the host issues (00_scope.md R7). -/
inductive HostEvent where
  /-- `reset()`, R106. -/
  | reset
  /-- `load_program(bytes)`, R107. -/
  | load (bytes : List Byte)
  /-- `execute_cycle()`, R108. -/
  | cycle
  /-- `advance_timers()`, R109. -/
  | tick
  /-- `set_key(index, pressed)`, R110; the index is a 4-bit port. -/
  | setKey (k : KeyIdx) (pressed : Bool)
  /-- `get_display()`, R111. -/
  | getDisplay
deriving DecidableEq, Repr

/-- The faults of 60_exceptions.md R115, with the information each reports. The first six are raised by a CYCLE, the
last by LOAD; each is the spec's own, precise and without effect on state (R124). All are safe: nothing can be proved of
a run past one. -/
inductive Fault where
  /-- Code 1, raised before the fetch (R116). Safe. -/
  | fetchOutOfRange (pc : Word)
  /-- Code 2, raised at decode (R117). Safe. -/
  | unknownOpcode (pc op : Word)
  /-- Code 3, raised by 2NNN (R118). Safe. -/
  | stackOverflow (pc op : Word)
  /-- Code 4, raised by 00EE (R119). Safe. -/
  | stackUnderflow (pc op : Word)
  /-- Code 5, raised by DXYN, FX33, FX55, FX65 (R120). Safe. -/
  | dataOutOfRange (pc op i : Word)
  /-- Code 6, raised by EX9E, EXA1 (R121). Safe. -/
  | keyIndexOutOfRange (pc op : Word) (vx : Byte)
  /-- Code 7, raised by LOAD (R122). Safe. -/
  | loadTooLarge (len : Nat)
deriving DecidableEq, Repr

/-- What the model gives no meaning. All are safe: a run that meets one proves nothing further. -/
inductive Refusal where
  /-- Raised by exec's arm of an instruction that has no meaning yet. Safe. -/
  | notModelled (mnemonic : String)
  /-- Raised by a CYCLE event when no LOAD has returned Ok since the last RESET (R136, D27, U9; log 9). Safe. -/
  | cycleBeforeLoad
  /-- Raised by a LOAD event when one has already returned Ok since the last RESET (R136, D27, U9; log 9). Safe. -/
  | loadOutOfOrder
deriving DecidableEq, Repr

/-- The state: the elements of R11, then four fields of the model's own. -/
structure State where
  /-- M, 4096 bytes (R18). -/
  mem : Memory
  /-- V[0]..V[15] (R12); V[15] is VF (R13). -/
  v : Vector Byte 16
  /-- I (R14). -/
  i : Word
  /-- PC (R15). -/
  pc : Word
  /-- S[0]..S[15] (R16). -/
  stack : Vector Word 16
  /-- SP, 0..16: the number of live entries (R16). -/
  sp : Fin 17
  /-- DT (R17). -/
  dt : Byte
  /-- ST (R17). -/
  st : Byte
  /-- D (R20). -/
  display : Display
  /-- K[0]..K[15] (R21). -/
  keys : Vector Bool 16
  /-- W, the awaiting-key flag (R22). -/
  waiting : Bool
  /-- WR, the register a waiting FX0A will write (R22). -/
  waitReg : RegIdx
  /-- The open parameters (R6), constant for the life of the core (R23). The model's own field (log 1). -/
  cfg : Params
  /-- How many random bytes have been consumed (R113). The model's own field (log 7). -/
  draws : Nat
  /-- The host's coming events, first first; with none left the next event is a CYCLE. The model's own field (log 8). -/
  pending : List HostEvent
  /-- Whether a LOAD has returned Ok since the last RESET (R136). The model's own field (log 9). -/
  loaded : Bool
deriving DecidableEq, Repr

/-- The display with every pixel off. -/
def Display.blank : Display := Vector.replicate 32 (Vector.replicate 64 false)

/-- The machine right after RESET (R24), with the default parameters (R6). `mem` lists nothing: memory holds its reset
contents, the font at FONT_BASE and 0x00 elsewhere (R18). -/
def State.reset : State where
  mem := []
  v := Vector.replicate 16 0
  i := 0
  pc := 0x0200
  stack := Vector.replicate 16 0
  sp := 0
  dt := 0
  st := 0
  display := Display.blank
  keys := Vector.replicate 16 false
  waiting := false
  waitReg := 0
  cfg := defaultParams
  draws := 0
  pending := []
  loaded := false

/-- What a step answers. -/
abbrev Result := Host.Outcome State Fault Refusal

end Sys2Proof.Machine
end

