-- ==== Sys2Proof/Machine/Ops.lean ====
section
/-! DEFINITION. The named operations over registers, program counter, stack, memory, display and random source, and the
raising of a fault (10_state.md, 20_memory.md, 60_exceptions.md). -/

namespace Sys2Proof.Machine

open Sys2Proof.Config

/-! ## Registers and program counter -/

/-- Read V[x] (R12). -/
def State.readV (s : State) (x : RegIdx) : Byte := s.v[x.val]

/-- Write V[x] (R12). -/
def State.writeV (s : State) (x : RegIdx) (b : Byte) : State := { s with v := s.v.set x.val b x.isLt }

/-- Write V[x], then VF: the order of 41_alu.md R70, so that with x = 15 the flag wins (R13; log 15). -/
def State.writeResultFlag (s : State) (x : RegIdx) (result flag : Byte) : State := (s.writeV x result).writeV VF flag

/-- `I <- v` (R14). -/
def State.setI (s : State) (v : Word) : State := { s with i := v }

/-- `pc <- target`: 16 bits, never masked to 12 (R15; log 12). -/
def State.setPc (s : State) (target : Word) : State := { s with pc := target }

/-- `next`: PC past this instruction (R9, R60). -/
def State.advance (s : State) : State := s.setPc (s.pc + 2)

/-- `skip`: PC past this instruction and the next (R9, R60). -/
def State.skip (s : State) : State := s.setPc (s.pc + 4)

/-- `skip` if the condition holds, else `next` (R60). -/
def State.skipIf (s : State) (cond : Bool) : State :=
  match cond with
  | true => s.skip
  | false => s.advance

/-- `DT <- v` (R17). -/
def State.setDt (s : State) (v : Byte) : State := { s with dt := v }

/-- `ST <- v` (R17). -/
def State.setSt (s : State) (v : Byte) : State := { s with st := v }

/-- Enter the waiting sub-state for register x (R22). -/
def State.startWaiting (s : State) (x : RegIdx) : State := { s with waiting := true, waitReg := x }

/-- Leave the waiting sub-state (R22). WR, meaningful only while W = 1, keeps its value (log 25). -/
def State.stopWaiting (s : State) : State := { s with waiting := false }

/-! ## Faults -/

/-- `raise`: the ONE way an event faults. It ends the event and no state element changes (R9, R124): there is no handler,
vector or saved register, and so no return from one (R125; log 10). -/
def raise (f : Fault) : Result := .fault f

/-- The code of a fault (R115). -/
def Fault.code : Fault → Nat
  | .fetchOutOfRange _ => 1
  | .unknownOpcode _ _ => 2
  | .stackOverflow _ _ => 3
  | .stackUnderflow _ _ => 4
  | .dataOutOfRange _ _ _ => 5
  | .keyIndexOutOfRange _ _ _ => 6
  | .loadTooLarge _ => 7

/-! ## Memory -/

/-- What an address reads as after RESET, and so what an unlisted one reads as: the font at FONT_BASE, and 0x00
elsewhere (R18, R19; log 6). The program area is tested first, which changes no value, since the font ends below 0x200. -/
def resetByte (p : Params) (a : Nat) : Byte :=
  if programBase ≤ a then 0
  else if h : p.fontBase.val ≤ a ∧ a < p.fontBase.val + fontSize then
    (p.fontData[(a - p.fontBase.val) / 5]'(by simp only [fontSize] at h; omega))[(a - p.fontBase.val) % 5]'(by omega)
  else 0

/-- The byte at an address. -/
def Memory.read (p : Params) : Memory → Nat → Byte
  | [], a => resetByte p a
  | (k, b) :: rest, a => if k = a then b else Memory.read p rest a

/-- List a byte in front of a memory, unless it is what the address reads as anyway. -/
def Memory.consCell (p : Params) (a : Nat) (b : Byte) (rest : Memory) : Memory :=
  if b = resetByte p a then rest else (a, b) :: rest

/-- `M[a] <- b` on a memory in canonical form, keeping the form. No address is protected (R37; log 14). -/
def Memory.write (p : Params) : Memory → Nat → Byte → Memory
  | [], a, b => Memory.consCell p a b []
  | (k, c) :: rest, a, b =>
    if a < k then Memory.consCell p a b ((k, c) :: rest)
    else if a = k then Memory.consCell p a b rest
    else (k, c) :: Memory.write p rest a b

/-- The canonical form: addresses strictly rising, within memory, and no entry equal to what its address reads as
unlisted. -/
def Memory.wf (p : Params) : Memory → Bool
  | [] => true
  | (k, b) :: rest =>
    decide (k < memSize) && decide (b ≠ resetByte p k) && rest.all (fun c => decide (k < c.1)) && Memory.wf p rest

/-- Write bytes at rising addresses from `a`. -/
def Memory.writeBytes (p : Params) : Memory → Nat → List Byte → Memory
  | m, _, [] => m
  | m, a, b :: bs => Memory.writeBytes p (Memory.write p m a b) (a + 1) bs

/-- `MemRead(a, 1)` (R36). -/
def State.byteAt (s : State) (a : Nat) : Byte := Memory.read s.cfg s.mem a

/-- The bytes at `a .. a + n - 1`. -/
def State.bytesAt (s : State) (a n : Nat) : List Byte := (List.range n).map fun k => s.byteAt (a + k)

/-- `MemWrite` of consecutive single bytes from `a` (R36). -/
def State.storeBytes (s : State) (a : Nat) (bs : List Byte) : State :=
  { s with mem := Memory.writeBytes s.cfg s.mem a bs }

/-- The word at PC, big-endian (R33, R36). No alignment (R34; log 13). -/
def State.fetchWord (s : State) : Word := wordOfBytes (s.byteAt s.pc.toNat) (s.byteAt (s.pc.toNat + 1))

/-- Whether both bytes of the word at PC lie in memory (R35; log 11). -/
def State.fetchInRange (s : State) : Bool := decide (s.pc.toNat ≤ 0xFFE)

/-- Whether the bytes `a .. a + len - 1` lie in memory; an access of length 0 touches none (R35; log 11). -/
def rangeInMemory (a len : Nat) : Bool := decide (len = 0 ∨ a + len - 1 ≤ 0xFFF)

/-- Run `k` if the `len` bytes from I lie in memory, else raise DataOutOfRange before anything changes (R35, R91, R120).
The reported word is the instruction's own (log 23). -/
def withDataRange (i : Instr) (len : Nat) (s : State) (k : Result) : Result :=
  match rangeInMemory s.i.toNat len with
  | true => k
  | false => raise (.dataOutOfRange s.pc (encode i) s.i)

/-! ## Call stack (R16) -/

/-- Push a return address; none when SP = 16. -/
def State.push (s : State) (ret : Word) : Option State :=
  if h : s.sp.val < 16 then some { s with stack := s.stack.set s.sp.val ret h, sp := ⟨s.sp.val + 1, by omega⟩ } else none

/-- Pop the most recent return address; the slot keeps its value. None when SP = 0. -/
def State.pop (s : State) : Option (Word × State) :=
  if h : 0 < s.sp.val then
    some (s.stack[s.sp.val - 1]'(by omega), { s with sp := ⟨s.sp.val - 1, by omega⟩ })
  else none

/-! ## Display (R20) -/

/-- The pixel D[y][x]. -/
def Display.pixel (d : Display) (y : Fin 32) (x : Fin 64) : Bool := d[y.val][x.val]

/-- `D[y][x] <- D[y][x] ^ 1`. -/
def Display.flip (d : Display) (y : Fin 32) (x : Fin 64) : Display :=
  d.set y.val (d[y.val].set x.val (!d[y.val][x.val]) x.isLt) y.isLt

/-- A column reduced modulo the width (R94). -/
def wrapX (n : Nat) : Fin 64 := ⟨n % 64, Nat.mod_lt _ (by decide)⟩

/-- A row reduced modulo the height (R94). -/
def wrapY (n : Nat) : Fin 32 := ⟨n % 32, Nat.mod_lt _ (by decide)⟩

/-- Column j of a sprite byte: the most significant bit is the leftmost (R94; log 16). -/
def spriteBit (b : Byte) (j : Nat) : Bool := b.getLsbD (7 - j)

/-- One sprite bit at display row y: if it is set, note a collision where the pixel is on, and invert the pixel (R94). -/
def plotBit (x0 : Nat) (y : Fin 32) (b : Byte) (acc : Display × Bool) (j : Nat) : Display × Bool :=
  if spriteBit b j then
    (acc.1.flip y (wrapX (x0 + j)), acc.2 || acc.1.pixel y (wrapX (x0 + j)))
  else acc

/-- The eight columns of one sprite row (R94). -/
def drawRow (x0 : Nat) (y : Fin 32) (b : Byte) (acc : Display × Bool) : Display × Bool :=
  (List.range 8).foldl (plotBit x0 y b) acc

/-- The rows of a sprite from display row y0 down: the new display, and whether a lit pixel went off (R94). -/
def drawRows (x0 : Nat) : Nat → List Byte → Display × Bool → Display × Bool
  | _, [], acc => acc
  | y0, b :: bs, acc => drawRows x0 (y0 + 1) bs (drawRow x0 (wrapY y0) b acc)

/-- `D <- d` as a whole, for 00E0 and DXYN. -/
def State.setDisplay (s : State) (d : Display) : State := { s with display := d }

/-! ## Random source (R113) -/

/-- `rand8()`: the byte the random source supplies now. A free value (log 7). -/
def State.rand8 (s : State) : Byte := randomByte s.draws

/-- The byte is used up. -/
def State.consumeDraw (s : State) : State := { s with draws := s.draws + 1 }

/-! ## Keypad (R21) -/

/-- The lowest-numbered pressed key (R99; log 19). -/
def State.firstKey (s : State) : Option KeyIdx := (List.finRange 16).find? fun k => s.keys[k.val]

end Sys2Proof.Machine
end

