-- ==== Sys2Proof/Machine/Operands.lean ====
section
/-! DEFINITION. The operand forms: how a field of an instruction becomes a value or an address (30_encoding.md R49,
42_index_memory.md R91). -/

namespace Sys2Proof.Machine

/-- `zext_16(NNN)` (R49). -/
def addrOf (nnn : Addr12) : Word := nnn.setWidth 16

/-- NNN + V[0]: at most 0x10FE, not reduced (R68; log 12). -/
def jumpTarget (s : State) (nnn : Addr12) : Word := addrOf nnn + (s.readV 0).setWidth 16

/-- The value 8XY6 and 8XYE shift (R80, R82; log 4). -/
def shiftSource (s : State) (x y : RegIdx) : Byte := if s.cfg.shiftUsesVY then s.readV y else s.readV x

/-- The address of the glyph for the low nibble of a value: FONT_BASE + 5 * d (R87). -/
def glyphAddr (s : State) (b : Byte) : Word := BitVec.ofNat 16 (s.cfg.fontBase.val + 5 * (b.toNat % 16))

/-- The registers V[0]..V[x], V[0] first (R89). -/
def regBlock (s : State) (x : RegIdx) : List Byte := s.v.toList.take (x.val + 1)

/-- The registers after V[0]..V[x] are loaded from address a (R90). -/
def loadBlock (s : State) (x : RegIdx) (a : Nat) : Vector Byte 16 :=
  Vector.ofFn fun r => if r ≤ x then s.byteAt (a + r.val) else s.readV r

/-- The three decimal digits, hundreds first (R88). -/
def decimalDigits (b : Byte) : List Byte :=
  [BitVec.ofNat 8 (b.toNat / 100), BitVec.ofNat 8 (b.toNat / 10 % 10), BitVec.ofNat 8 (b.toNat % 10)]

/-- I after FX55 or FX65: unchanged, or past the block (R89, R90; log 5). -/
def indexAfterBlock (s : State) (x : RegIdx) : Word :=
  if s.cfg.ldstIncrementsI then s.i + BitVec.ofNat 16 (x.val + 1) else s.i

/-- A register value as a key index; none above 15 (R103; log 18). -/
def keyOf (b : Byte) : Option KeyIdx := if h : b.toNat < 16 then some ⟨b.toNat, h⟩ else none

/-- A key index as the byte FX0A stores (R99). -/
def keyByte (k : KeyIdx) : Byte := BitVec.ofNat 8 k.val

end Sys2Proof.Machine
end

