-- ==== Sys2Proof/Machine/Alu.lean ====
section
/-! DEFINITION. Register load, ALU and random: 6XNN, 7XNN, 8XY0 to 8XY7, 8XYE, CXNN (41_alu.md). Operands are read from
the state before, the result is written to V[X], then a flag-producing instruction writes VF (R70). -/

namespace Sys2Proof.Machine

/-- Write the result to V[X] and go on, with no flag (R70, R71). -/
def finish (s : State) (x : RegIdx) (result : Byte) : Result := .next (s.writeV x result).advance

/-- Write the result to V[X], then the flag to VF, and go on (R70). -/
def finishFlag (s : State) (x : RegIdx) (result flag : Byte) : Result := .next (s.writeResultFlag x result flag).advance

/-- 6XNN, R72. -/
def execLdImm (x : RegIdx) (nn : Byte) (s : State) : Result := finish s x nn

/-- 7XNN, R73. -/
def execAddImm (x : RegIdx) (nn : Byte) (s : State) : Result := finish s x (s.readV x + nn)

/-- 8XY0, R74. -/
def execLdReg (x y : RegIdx) (s : State) : Result := finish s x (s.readV y)

/-- 8XY1, R75. -/
def execOrReg (x y : RegIdx) (s : State) : Result := finish s x (s.readV x ||| s.readV y)

/-- 8XY2, R76. -/
def execAndReg (x y : RegIdx) (s : State) : Result := finish s x (s.readV x &&& s.readV y)

/-- 8XY3, R77. -/
def execXorReg (x y : RegIdx) (s : State) : Result := finish s x (s.readV x ^^^ s.readV y)

/-- 8XY4, R78. -/
def execAddReg (x y : RegIdx) (s : State) : Result :=
  finishFlag s x (s.readV x + s.readV y) (carryFlag (s.readV x) (s.readV y))

/-- 8XY5, R79. -/
def execSubReg (x y : RegIdx) (s : State) : Result :=
  finishFlag s x (s.readV x - s.readV y) (noBorrowFlag (s.readV x) (s.readV y))

/-- 8XY6, R80. -/
def execShr (x y : RegIdx) (s : State) : Result :=
  finishFlag s x (shiftSource s x y >>> 1) (lowBitFlag (shiftSource s x y))

/-- 8XY7, R81. -/
def execSubnReg (x y : RegIdx) (s : State) : Result :=
  finishFlag s x (s.readV y - s.readV x) (noBorrowFlag (s.readV y) (s.readV x))

/-- 8XYE, R82. -/
def execShl (x y : RegIdx) (s : State) : Result :=
  finishFlag s x (shiftSource s x y <<< 1) (highBitFlag (shiftSource s x y))

/-- CXNN, R83: one random byte is consumed. -/
def execRnd (x : RegIdx) (nn : Byte) (s : State) : Result := finish s.consumeDraw x (s.rand8 &&& nn)

end Sys2Proof.Machine
end

