-- ==== Sys2Proof/Machine/Control.lean ====
section
/-! DEFINITION. Control transfer: 00EE, 1NNN, 2NNN, 3XNN, 4XNN, 5XY0, 9XY0, BNNN (40_control_flow.md). -/

namespace Sys2Proof.Machine

/-- 00EE, R61. -/
def execRet (s : State) : Result :=
  match s.pop with
  | none => raise (.stackUnderflow s.pc (encode .ret))
  | some (ret, t) => .next (t.setPc ret)

/-- 1NNN, R62. -/
def execJp (nnn : Addr12) (s : State) : Result := .next (s.setPc (addrOf nnn))

/-- 2NNN, R63: the address pushed is that of the instruction after the call (log 22). -/
def execCall (nnn : Addr12) (s : State) : Result :=
  match s.push (s.pc + 2) with
  | none => raise (.stackOverflow s.pc (encode (.call nnn)))
  | some t => .next (t.setPc (addrOf nnn))

/-- 3XNN, R64. -/
def execSeImm (x : RegIdx) (nn : Byte) (s : State) : Result := .next (s.skipIf (s.readV x == nn))

/-- 4XNN, R65. -/
def execSneImm (x : RegIdx) (nn : Byte) (s : State) : Result := .next (s.skipIf (s.readV x != nn))

/-- 5XY0, R66. -/
def execSeReg (x y : RegIdx) (s : State) : Result := .next (s.skipIf (s.readV x == s.readV y))

/-- 9XY0, R67. -/
def execSneReg (x y : RegIdx) (s : State) : Result := .next (s.skipIf (s.readV x != s.readV y))

/-- BNNN, R68. -/
def execJpV0 (nnn : Addr12) (s : State) : Result := .next (s.setPc (jumpTarget s nnn))

end Sys2Proof.Machine
end

