-- ==== Sys2Proof/Machine/IndexMemory.lean ====
section
/-! DEFINITION. Index register and memory: ANNN, FX1E, FX29, FX33, FX55, FX65 (42_index_memory.md). -/

namespace Sys2Proof.Machine

/-- ANNN, R85. -/
def execLdI (nnn : Addr12) (s : State) : Result := .next (s.setI (addrOf nnn)).advance

/-- FX1E, R86: modulo 65536, not reduced to 12 bits, no flag (log 12). -/
def execAddI (x : RegIdx) (s : State) : Result := .next (s.setI (s.i + (s.readV x).setWidth 16)).advance

/-- FX29, R87. -/
def execLdF (x : RegIdx) (s : State) : Result := .next (s.setI (glyphAddr s (s.readV x))).advance

/-- FX33, R88. -/
def execLdB (x : RegIdx) (s : State) : Result :=
  withDataRange (.ldB x) 3 s (.next (s.storeBytes s.i.toNat (decimalDigits (s.readV x))).advance)

/-- FX55, R89. -/
def execStoreRegs (x : RegIdx) (s : State) : Result :=
  withDataRange (.storeRegs x) (x.val + 1) s
    (.next ((s.storeBytes s.i.toNat (regBlock s x)).setI (indexAfterBlock s x)).advance)

/-- FX65, R90. -/
def execLoadRegs (x : RegIdx) (s : State) : Result :=
  withDataRange (.loadRegs x) (x.val + 1) s
    (.next ({ s with v := loadBlock s x s.i.toNat }.setI (indexAfterBlock s x)).advance)

end Sys2Proof.Machine
end

