-- ==== Sys2Proof/Machine/KeypadTimers.lean ====
section
/-! DEFINITION. Keypad and timers: EX9E, EXA1, FX0A and its waiting step, FX07, FX15, FX18 (44_keypad_timers.md). -/

namespace Sys2Proof.Machine

/-- Skip if the key that V[x] names has the given level; raise KeyIndexOutOfRange if it names none (R103). -/
def skipOnKey (i : Instr) (x : RegIdx) (level : Bool) (s : State) : Result :=
  match keyOf (s.readV x) with
  | none => raise (.keyIndexOutOfRange s.pc (encode i) (s.readV x))
  | some k => .next (s.skipIf (s.keys[k.val] == level))

/-- EX9E, R97. -/
def execSkp (x : RegIdx) (s : State) : Result := skipOnKey (.skp x) x true s

/-- EXA1, R98. -/
def execSknp (x : RegIdx) (s : State) : Result := skipOnKey (.sknp x) x false s

/-- FX0A, R99, as a CYCLE with W = 0 runs it: with a key down it completes at once, with none it starts to wait and PC
stays. -/
def execLdVxK (x : RegIdx) (s : State) : Result :=
  match s.firstKey with
  | some k => .next (s.writeV x (keyByte k)).advance
  | none => .next (s.startWaiting x)

/-- What a CYCLE with W = 1 does in place of fetch, decode and execute (R99). -/
def waitStep (s : State) : State :=
  match s.firstKey with
  | some k => (s.writeV s.waitReg (keyByte k)).stopWaiting.advance
  | none => s

/-- FX07, R100. -/
def execLdVxDt (x : RegIdx) (s : State) : Result := .next (s.writeV x s.dt).advance

/-- FX15, R101. -/
def execLdDtVx (x : RegIdx) (s : State) : Result := .next (s.setDt (s.readV x)).advance

/-- FX18, R102. -/
def execLdStVx (x : RegIdx) (s : State) : Result := .next (s.setSt (s.readV x)).advance

/-- A timer after a TICK (R109, R17). -/
def countDown (t : Byte) : Byte := if t = 0 then 0 else t - 1

/-- The sound-active output (R112). -/
def soundActive (s : State) : Bool := s.st != 0

end Sys2Proof.Machine
end

