-- ==== Sys2Proof/Machine/Screen.lean ====
section
/-! DEFINITION. Display: 00E0, DXYN (43_display.md), and what the host sees of it (R111). -/

namespace Sys2Proof.Machine

/-- 00E0, R93: VF is not written. -/
def execCls (s : State) : Result := .next (s.setDisplay Display.blank).advance

/-- What drawing the n sprite bytes at I with its corner at (V[X], V[Y]) makes of the display (R94). -/
def drawSprite (x y : RegIdx) (n : Nat) (s : State) : Display × Bool :=
  drawRows (s.readV x).toNat (s.readV y).toNat (s.bytesAt s.i.toNat n) (s.display, false)

/-- DXYN, R94: VF, written last, is the collision flag. With N = 0 nothing is read or drawn and VF becomes 0 (log 17). -/
def execDrw (x y : RegIdx) (n : Nat) (s : State) : Result :=
  withDataRange (.drw x y n) n s
    (.next ((s.setDisplay (drawSprite x y n s).1).writeV VF (flagByte (drawSprite x y n s).2)).advance)

/-- The view GETDISPLAY returns: 2048 bits, row-major, index y * 64 + x (R111; log 29). -/
def getDisplay (s : State) : Vector Bool 2048 :=
  Vector.ofFn fun p => s.display[p.val / 64][p.val % 64]

end Sys2Proof.Machine
end

