-- ==== Sys2Proof/Machine/Events.lean ====
section
/-! DEFINITION. The six host events and what the host sees of each (48_host_commands.md). -/

namespace Sys2Proof.Machine

open Sys2Proof.Config

/-- RESET, R106: every element of R24 takes its reset value, whatever it was. The parameters are constant (R23), the
random source is not touched (R23, R113), and the host's own coming events are not the core's state. -/
def resetCore (s : State) : State := { State.reset with cfg := s.cfg, draws := s.draws, pending := s.pending }

/-- LOAD, R107: the image goes to 0x200 and nothing else changes; an image over 3584 bytes is refused whole with a fault
(R122; log 20). Out of its place in the boot order it has no meaning (R136; log 9). -/
def loadProgram (bytes : List Byte) (s : State) : Result :=
  if s.loaded then .refused .loadOutOfOrder
  else if bytes.length > maxProgram then raise (.loadTooLarge bytes.length)
  else .next { s.storeBytes programBase bytes with loaded := true }

/-- The fetch-decode-execute step of CYCLE, R108, in the order of checks of R123. -/
def executeCycle (s : State) : Result :=
  if s.waiting then .next (waitStep s)
  else if s.fetchInRange then
    match decode s.fetchWord with
    | none => raise (.unknownOpcode s.pc s.fetchWord)
    | some i => exec i s
  else raise (.fetchOutOfRange s.pc)

/-- CYCLE, R108; before a LOAD it has no meaning (R136; log 9). -/
def cycle (s : State) : Result := if s.loaded then executeCycle s else .refused .cycleBeforeLoad

/-- TICK, R109. -/
def tick (s : State) : State := { s with dt := countDown s.dt, st := countDown s.st }

/-- SETKEY, R110. -/
def setKey (k : KeyIdx) (pressed : Bool) (s : State) : State := { s with keys := s.keys.set k.val pressed k.isLt }

/-- One event (R105). RESET, TICK, SETKEY and GETDISPLAY have their effect in every state (D32; log 27), and GETDISPLAY
changes nothing (R111). -/
def applyEvent (e : HostEvent) (s : State) : Result :=
  match e with
  | .reset => .next (resetCore s)
  | .load bytes => loadProgram bytes s
  | .cycle => cycle s
  | .tick => .next (tick s)
  | .setKey k pressed => .next (setKey k pressed s)
  | .getDisplay => .next s

/-- What the host gets back from an event (R105, R114). -/
inductive Reply where
  /-- The outcome Ok. -/
  | ok
  /-- The outcome Ok of GETDISPLAY, with the view (R111). -/
  | view (pixels : Vector Bool 2048)
  /-- Fault(code, info) (R115). -/
  | fault (code : Nat) (info : Fault)
  /-- The model gives the event no meaning. -/
  | refused (why : Refusal)
deriving DecidableEq, Repr

/-- An event as the host sees it: the state after it and the reply. A faulted event leaves the state as it was (R124), so
that the host may go on with TICK, SETKEY, GETDISPLAY or RESET (R125). A refused event leaves it as it was too: R136 says to
refuse the event and names no state after it, so that is the model's, DESIGN CHOICE, unsafe (log 31). -/
def deliver (e : HostEvent) (s : State) : State × Reply :=
  match applyEvent e s with
  | .next t => (t, match e with
    | .getDisplay => .view (getDisplay s)
    | .reset | .load _ | .cycle | .tick | .setKey _ _ => .ok)
  | .fault f => (s, .fault f.code f)
  | .refused r => (s, .refused r)

end Sys2Proof.Machine
end

