-- ==== Sys2Proof/Machine/Step.lean ====
section
/-! DEFINITION. One step: the host's next event. -/

namespace Sys2Proof.Machine

open Sys2Proof.Config

/-- The event at the head of `pending`, or a CYCLE when none is listed (R7, R105; log 8). A fault ends the run (R125). -/
def step (s : State) : Host.Outcome State Fault Refusal :=
  match s.pending with
  | [] => applyEvent .cycle s
  | e :: rest => applyEvent e { s with pending := rest }

/-- The word numbered `w` in the opcode table, stored where the next step fetches, in a core that has been loaded, does
not wait for a key and whose next event is a CYCLE. It stands for the LOAD that brings a program in (log 9). PC is kept
where a word can be fetched there, else it becomes 0x200 (log 26). -/
def State.withFetchWord (s : State) (nbits w : Nat) : State :=
  let at' := if s.fetchInRange then s.pc else 0x0200
  { s.storeBytes at'.toNat (bytesOfWord (tableWord nbits w)) with
    pc := at', waiting := false, loaded := true, pending := [] }

end Sys2Proof.Machine
end

