-- ==== Sys2Proof/Safety.lean ====
section
/-! DEFINITION. The terms claims are made in: what an instruction may write and what it must leave alone, which words
decode to an instruction, the invariant of a running core (10_state.md R25), which event a step runs, and the end of a
run (70_reset_and_hazards.md R142). -/

namespace Sys2Proof.Safety

open Sys2Proof.Machine

/-! ## Frames -/

/-- The parts of the state an instruction or event may write. PC is not listed: each claim says what it becomes. -/
structure Writes where
  /-- General registers. -/
  regs : List RegIdx := []
  /-- I. -/
  index : Bool := false
  /-- Bytes of memory. -/
  bytes : List Nat := []
  /-- Stack slots. -/
  slots : List (Fin 16) := []
  /-- SP. -/
  sp : Bool := false
  /-- DT. -/
  dt : Bool := false
  /-- ST. -/
  st : Bool := false
  /-- D. -/
  display : Bool := false
  /-- K. -/
  keys : Bool := false
  /-- W and WR. -/
  wait : Bool := false
  /-- The count of consumed random bytes. -/
  draws : Bool := false
  /-- The record that a LOAD has returned Ok. -/
  loaded : Bool := false

/-- Everything outside `w`, PC apart, is in `t` as it is in `s`; memory is compared byte by byte. -/
structure SameExcept (w : Writes) (s t : State) : Prop where
  regs : ∀ r : RegIdx, r ∉ w.regs → t.readV r = s.readV r
  index : w.index = false → t.i = s.i
  bytes : ∀ a : Nat, a ∉ w.bytes → t.byteAt a = s.byteAt a
  slots : ∀ j : Fin 16, j ∉ w.slots → t.stack[j.val] = s.stack[j.val]
  sp : w.sp = false → t.sp = s.sp
  dt : w.dt = false → t.dt = s.dt
  st : w.st = false → t.st = s.st
  display : w.display = false → t.display = s.display
  keys : w.keys = false → t.keys = s.keys
  wait : w.wait = false → t.waiting = s.waiting ∧ t.waitReg = s.waitReg
  draws : w.draws = false → t.draws = s.draws
  cfg : t.cfg = s.cfg
  pending : t.pending = s.pending
  loaded : w.loaded = false → t.loaded = s.loaded

/-- The addresses `a .. a + n - 1`. -/
def addrRange (a n : Nat) : List Nat := (List.range n).map fun k => a + k

/-- The same result with `f` applied to its next state; faults and refusals stand as they are. -/
def mapNext (f : State → State) : Result → Result
  | .next t => .next (f t)
  | .fault e => .fault e
  | .refused r => .refused r

/-! ## Which words are an instruction (R48) -/

/-- Format FA with family t. -/
def DecodesFA (t : Nibble) (mk : Addr12 → Instr) : Prop :=
  ∀ op : Word, fieldT op = t → decode op = some (mk (fieldNNN op))

/-- Format FXB with family t. -/
def DecodesFXB (t : Nibble) (mk : RegIdx → Byte → Instr) : Prop :=
  ∀ op : Word, fieldT op = t → decode op = some (mk (fieldX op) (fieldNN op))

/-- Format FXY with family t and sub-opcode n. -/
def DecodesFXY (t n : Nibble) (mk : RegIdx → RegIdx → Instr) : Prop :=
  ∀ op : Word, fieldT op = t → fieldN op = n → decode op = some (mk (fieldX op) (fieldY op))

/-- Format FX with family t and sub-opcode nn. -/
def DecodesFX (t : Nibble) (nn : Byte) (mk : RegIdx → Instr) : Prop :=
  ∀ op : Word, fieldT op = t → fieldNN op = nn → decode op = some (mk (fieldX op))

/-! ## Families of instructions the rules speak of -/

/-- The six instructions that write VF as a flag (R13). -/
def flagProducing : Instr → Bool
  | .addReg _ _ | .subReg _ _ | .shr _ _ | .subnReg _ _ | .shl _ _ | .drw _ _ _ => true
  | .cls | .ret | .jp _ | .call _ | .seImm _ _ | .sneImm _ _ | .seReg _ _ | .sneReg _ _ => false
  | .ldImm _ _ | .addImm _ _ | .ldReg _ _ | .orReg _ _ | .andReg _ _ | .xorReg _ _ => false
  | .ldI _ | .jpV0 _ | .rnd _ _ | .skp _ | .sknp _ | .ldVxDt _ | .ldDtVx _ | .ldStVx _ | .ldVxK _ => false
  | .addI _ | .ldF _ | .ldB _ | .storeRegs _ | .loadRegs _ => false

/-- The general registers that are the explicit destination of an instruction (R12, R13). -/
def destinations : Instr → List RegIdx
  | .ldImm x _ | .addImm x _ | .rnd x _ | .ldVxDt x | .ldVxK x => [x]
  | .ldReg x _ | .orReg x _ | .andReg x _ | .xorReg x _ => [x]
  | .addReg x _ | .subReg x _ | .shr x _ | .subnReg x _ | .shl x _ => [x]
  | .loadRegs x => (List.finRange 16).filter (· ≤ x)
  | .cls | .ret | .jp _ | .call _ | .seImm _ _ | .sneImm _ _ | .seReg _ _ | .sneReg _ _ => []
  | .ldI _ | .jpV0 _ | .drw _ _ _ | .skp _ | .sknp _ | .ldDtVx _ | .ldStVx _ => []
  | .addI _ | .ldF _ | .ldB _ | .storeRegs _ => []

/-- The six conditional skips (R60). -/
def isSkip : Instr → Bool
  | .seImm _ _ | .sneImm _ _ | .seReg _ _ | .sneReg _ _ | .skp _ | .sknp _ => true
  | .cls | .ret | .jp _ | .call _ | .ldImm _ _ | .addImm _ _ | .ldReg _ _ | .orReg _ _ | .andReg _ _ => false
  | .xorReg _ _ | .addReg _ _ | .subReg _ _ | .shr _ _ | .subnReg _ _ | .shl _ _ | .ldI _ | .jpV0 _ => false
  | .rnd _ _ | .drw _ _ _ | .ldVxDt _ | .ldDtVx _ | .ldStVx _ | .ldVxK _ => false
  | .addI _ | .ldF _ | .ldB _ | .storeRegs _ | .loadRegs _ => false

/-- The instructions that set PC to an explicit target (R60). -/
def isTransfer : Instr → Bool
  | .ret | .jp _ | .call _ | .jpV0 _ => true
  | .cls | .seImm _ _ | .sneImm _ _ | .seReg _ _ | .sneReg _ _ | .skp _ | .sknp _ => false
  | .ldImm _ _ | .addImm _ _ | .ldReg _ _ | .orReg _ _ | .andReg _ _ => false
  | .xorReg _ _ | .addReg _ _ | .subReg _ _ | .shr _ _ | .subnReg _ _ | .shl _ _ | .ldI _ => false
  | .rnd _ _ | .drw _ _ _ | .ldVxDt _ | .ldDtVx _ | .ldStVx _ | .ldVxK _ => false
  | .addI _ | .ldF _ | .ldB _ | .storeRegs _ | .loadRegs _ => false

/-! ## The display -/

/-- A set bit of the n-row sprite at I, drawn at (V[x], V[y]), lands on the pixel (py, px) (R94). -/
def SpriteCovers (s : State) (x y : RegIdx) (n : Nat) (py : Fin 32) (px : Fin 64) : Prop :=
  ∃ r j : Nat, r < n ∧ j < 8 ∧ (s.byteAt (s.i.toNat + r)).getLsbD (7 - j) = true ∧
    px.val = ((s.readV x).toNat + j) % 64 ∧ py.val = ((s.readV y).toNat + r) % 32

/-! ## The keypad -/

/-- k is the lowest-numbered pressed key (R99). -/
def LowestPressed (s : State) (k : KeyIdx) : Prop :=
  s.keys[k.val] = true ∧ ∀ j : KeyIdx, j < k → s.keys[j.val] = false

/-- No key is pressed. -/
def NoKeyPressed (s : State) : Prop := ∀ k : KeyIdx, s.keys[k.val] = false

/-! ## Runs -/

/-- The event the next step runs (log 8). -/
def nextEvent (s : State) : HostEvent := s.pending.headD .cycle

/-- The state the next event finds: the event has left the host's list. -/
def taken (s : State) : State := { s with pending := s.pending.tail }

/-- The next step is a CYCLE that fetches and decodes the instruction i (R108). -/
structure Runs (s : State) (i : Instr) : Prop where
  event : nextEvent s = .cycle
  loaded : s.loaded = true
  notWaiting : s.waiting = false
  inRange : s.pc.toNat ≤ 0xFFE
  decoded : decode s.fetchWord = some i

/-- Every element of R24 has its reset value: memory is the font at FONT_BASE and 0x00 elsewhere. -/
structure AtReset (s : State) : Prop where
  regs : ∀ r : RegIdx, s.readV r = 0
  index : s.i = 0x0000
  pc : s.pc = 0x0200
  slots : ∀ j : Fin 16, s.stack[j.val] = 0x0000
  sp : s.sp.val = 0
  dt : s.dt = 0x00
  st : s.st = 0x00
  display : ∀ y x, s.display.pixel y x = false
  keys : ∀ k : KeyIdx, s.keys[k.val] = false
  waiting : s.waiting = false
  waitReg : s.waitReg = 0
  font : ∀ (d : Fin 16) (r : Fin 5), s.byteAt (s.cfg.fontBase.val + 5 * d.val + r.val) = s.cfg.fontData[d.val][r.val]
  zeros : ∀ a : Nat, a < s.cfg.fontBase.val ∨ s.cfg.fontBase.val + 80 ≤ a → s.byteAt a = 0x00

/-- The invariants of R25, with the canonical form of memory and the boot order that R25's last one rests on. -/
structure CoreInv (s : State) : Prop where
  /-- Memory is in canonical form. -/
  memCanonical : Memory.wf s.cfg s.mem = true
  /-- PC in 0..0x10FE. -/
  pcBound : s.pc.toNat ≤ 0x10FE
  /-- Every live stack entry is in 0x0002..0x1000. -/
  liveSlots : ∀ j : Fin 16, j.val < s.sp.val → 0x0002 ≤ (s.stack[j.val]).toNat ∧ (s.stack[j.val]).toNat ≤ 0x1000
  /-- If W = 1, the word at PC is an FX0A whose X field is WR. -/
  waitingWord : s.waiting = true → s.pc.toNat ≤ 0xFFE ∧ s.fetchWord = encode (.ldVxK s.waitReg)
  /-- Only a loaded core waits (R136). -/
  waitingLoaded : s.waiting = true → s.loaded = true

/-- The program has ended: the word at PC jumps to itself, and the core does not wait (R142). -/
structure Terminated (s : State) : Prop where
  notWaiting : s.waiting = false
  inRange : s.pc.toNat ≤ 0xFFE
  selfJump : s.fetchWord.toNat = 0x1000 + s.pc.toNat

end Sys2Proof.Safety
end

