-- ==== Sys2Proof/Certificates/Slice0/Obligations.lean ====
section
/-! DEFINITION. The statements for the provers. Each docstring names the rules it formalises. A statement over every
`i : Instr` ranges over the ill-formed terms of DXYN too, which no step runs: what `exec` does with them is the model's
(log 24). -/

open Sys2Proof Sys2Proof.Machine Sys2Proof.Safety

/-! ## Reset and the invariant of a running core -/

/-- R24: the values RESET leaves, in `State.reset`, whose parameters are the defaults (log 1). -/
def Obligations.ResetStateHoldsTheStatedValues : Prop := AtReset State.reset

/-- R24, R106: RESET, in any state, answers a next state with every element at its reset value, and a second RESET changes
nothing more. The parameters are constant (R23). -/
def Obligations.ResetEventLeavesTheResetValues : Prop :=
  ∀ s : State, ∃ t, applyEvent .reset s = .next t ∧ AtReset t ∧ t.cfg = s.cfg ∧ applyEvent .reset t = .next t

/-- R25: the reset state meets the invariant. -/
def Obligations.ResetStateMeetsTheInvariant : Prop := CoreInv State.reset

/-- R25: every step, whatever the next event, keeps the invariant: PC in 0..0x10FE, live stack entries in
0x0002..0x1000, W = 1 only at an FX0A word whose X field is WR, memory in canonical form. -/
def Obligations.EveryStepKeepsTheInvariant : Prop :=
  ∀ s t : State, CoreInv s → step s = .next t → CoreInv t

/-- 20_memory.md R36: memory in canonical form, the model's (log 30), is determined by what its addresses read as. -/
def Obligations.CanonicalMemoriesThatReadAlikeAreEqual : Prop :=
  ∀ (p : Config.Params) (m m' : Memory), Memory.wf p m = true → Memory.wf p m' = true →
    (∀ a, Memory.read p m a = Memory.read p m' a) → m = m'

/-! ## Encoding -/

/-- Decoding the word of a well-formed instruction gives it back, and so does decoding its bytes, with the bytes after
them left over. -/
def Obligations.DecodeOfEncodeIsTheInstruction : Prop :=
  ∀ i : Instr, i.WellFormed →
    decode (encode i) = some i ∧ ∀ rest, decodeBytes (encodeBytes i ++ rest) = .ok (i, rest)

/-- A word that decodes is the word of the instruction it decodes to, which is well-formed: no bit is dropped (R54). -/
def Obligations.EncodeOfDecodeIsTheWord : Prop :=
  ∀ (op : Word) (i : Instr), decode op = some i → i.WellFormed ∧ encode i = op

/-- R51: a word decodes to the instruction of a row iff its bits under the row's mask are the row's pattern, and the
rows are pairwise disjoint. -/
def Obligations.DecodeFollowsTheOpcodeMap : Prop :=
  (∀ row ∈ opcodeTable, ∀ op : Word,
    op &&& row.mask = row.pattern ↔ ∃ i, decode op = some i ∧ patternName i = row.name) ∧
  opcodeTable.Pairwise fun r r' => ¬ ∃ op : Word, op &&& r.mask = r.pattern ∧ op &&& r'.mask = r'.pattern

/-- R53: the unknown words are exactly the listed ones. -/
def Obligations.UnknownWordsAreExactlyTheListed : Prop :=
  ∀ op : Word, decode op = none ↔
    (op.toNat ≤ 0x0FFF ∧ op ≠ 0x00E0 ∧ op ≠ 0x00EE) ∨
    (fieldT op = 0x5 ∧ fieldN op ≠ 0x0) ∨
    (fieldT op = 0x8 ∧ fieldN op ∈ ([0x8, 0x9, 0xA, 0xB, 0xC, 0xD, 0xF] : List Nibble)) ∨
    (fieldT op = 0x9 ∧ fieldN op ≠ 0x0) ∨
    (fieldT op = 0xE ∧ fieldNN op ∉ ([0x9E, 0xA1] : List Byte)) ∨
    (fieldT op = 0xF ∧ fieldNN op ∉ ([0x07, 0x0A, 0x15, 0x18, 0x1E, 0x29, 0x33, 0x55, 0x65] : List Byte))

/-- 95_test_vectors.md S10 and T-ENC: words written out from the spec decode as it says. -/
def Obligations.WordsOfTheSpecDecodeAsItSays : Prop :=
  decode 0x00E0 = some .cls ∧ decode 0x1200 = some (.jp 0x200) ∧ decode 0x6A05 = some (.ldImm 10 0x05) ∧
  decode 0x7A10 = some (.addImm 10 0x10) ∧ decode 0xD125 = some (.drw 1 2 5) ∧ decode 0x8AB4 = some (.addReg 10 11) ∧
  decode 0xF265 = some (.loadRegs 2) ∧ decode 0xBFFF = some (.jpV0 0xFFF) ∧ decode 0xE4A1 = some (.sknp 4) ∧
  decode 0x0000 = none ∧ decode 0x5121 = none ∧ decode 0x8128 = none ∧ decode 0xF175 = none

/-! ## The step -/

/-- R108, R33: a CYCLE of a loaded core that does not wait runs the instruction its word decodes to, the word being the
two bytes at PC, high byte first. Around exec the step only takes the event off the host's list (log 8). -/
def Obligations.StepRunsTheDecodedInstruction : Prop :=
  (∀ (s : State) (i : Instr), Runs s i → step s = exec i (taken s)) ∧
  ∀ s : State, s.fetchWord.toNat = (s.byteAt s.pc.toNat).toNat * 256 + (s.byteAt (s.pc.toNat + 1)).toNat

/-- R116, R117: a CYCLE with W = 0 raises FetchOutOfRange(PC) when PC > 0xFFE, and otherwise UnknownOpcode(PC, op) when
the fetched word is no instruction. -/
def Obligations.FetchAndDecodeFaults : Prop :=
  ∀ s : State, nextEvent s = .cycle → s.loaded = true → s.waiting = false →
    (0xFFE < s.pc.toNat → step s = .fault (.fetchOutOfRange s.pc)) ∧
    (s.pc.toNat ≤ 0xFFE → decode s.fetchWord = none → step s = .fault (.unknownOpcode s.pc s.fetchWord))

/-- R136, D27, U9: a CYCLE before a LOAD, and a LOAD after one, have no meaning; TICK, SETKEY, GETDISPLAY and RESET have
theirs at any time. That they are refused, and that the core remembers a LOAD until the next RESET, is the model's
(log 9). -/
def Obligations.EventsOutOfBootOrderAreRefused : Prop :=
  ∀ s : State,
    (nextEvent s = .cycle → s.loaded = false → step s = .refused .cycleBeforeLoad) ∧
    (∀ bytes, nextEvent s = .load bytes → s.loaded = true → step s = .refused .loadOutOfOrder) ∧
    (∀ bytes, nextEvent s = .load bytes → s.loaded = false → bytes.length ≤ 3584 →
      ∃ t, step s = .next t ∧ t.loaded = true) ∧
    (nextEvent s = .reset → ∃ t, step s = .next t ∧ t.loaded = false) ∧
    (nextEvent s = .tick ∨ (∃ k p, nextEvent s = .setKey k p) ∨ nextEvent s = .getDisplay →
      ∃ t, step s = .next t ∧ t.loaded = s.loaded)

/-- R124, R125: a faulted event leaves the state as it was, and the same event faults again in the same way; TICK,
SETKEY, GETDISPLAY and RESET still answer Ok. The reply is `deliver`'s, the model's (log 10). -/
def Obligations.FaultedEventChangesNothingAndRepeats : Prop :=
  ∀ (e : HostEvent) (s t : State) (c : Nat) (f : Fault), deliver e s = (t, .fault c f) →
    t = s ∧ c = f.code ∧ deliver e t = (s, .fault c f) ∧
    (deliver .tick t).2 = .ok ∧ (∀ k p, (deliver (.setKey k p) t).2 = .ok) ∧
    (deliver .getDisplay t).2 = .view (getDisplay t) ∧ (deliver .reset t).2 = .ok

/-- R142: a terminated program changes nothing: every further CYCLE leaves the state as it is. -/
def Obligations.SelfJumpIsAFixedPoint : Prop :=
  ∀ s : State, Terminated s → s.loaded = true → s.pending = [] → step s = .next s

/-! ## Control transfer -/

/-- R62, R68: 1NNN sets PC to NNN and BNNN to NNN + V[0], not reduced; nothing else changes. -/
def Obligations.JumpsSetPcToTheirTarget : Prop :=
  DecodesFA 0x1 .jp ∧ DecodesFA 0xB .jpV0 ∧
  ∀ (s : State) (nnn : Addr12),
    (∃ t, exec (.jp nnn) s = .next t ∧ t.pc.toNat = nnn.toNat ∧ SameExcept {} s t) ∧
    (∃ t, exec (.jpV0 nnn) s = .next t ∧ t.pc.toNat = nnn.toNat + (s.readV 0).toNat ∧ SameExcept {} s t)

/-- R63: 2NNN with SP < 16 stores pc + 2 in S[SP], adds 1 to SP and sets PC to NNN; with SP = 16 it raises
StackOverflow. -/
def Obligations.CallPushesTheReturnAddress : Prop :=
  DecodesFA 0x2 .call ∧
  (∀ (s : State) (nnn : Addr12) (h : s.sp.val < 16), ∃ t, exec (.call nnn) s = .next t ∧
    t.stack[s.sp.val] = s.pc + 2 ∧ t.sp.val = s.sp.val + 1 ∧ t.pc.toNat = nnn.toNat ∧
    SameExcept { slots := [⟨s.sp.val, h⟩], sp := true } s t) ∧
  ∀ (s : State) (nnn : Addr12), s.sp.val = 16 →
    exec (.call nnn) s = .fault (.stackOverflow s.pc (encode (.call nnn)))

/-- R61: 00EE with SP > 0 subtracts 1 from SP and sets PC to the entry there, which keeps its value; with SP = 0 it
raises StackUnderflow. -/
def Obligations.ReturnPopsTheReturnAddress : Prop :=
  decode 0x00EE = some .ret ∧
  (∀ (s : State) (h : 0 < s.sp.val), ∃ t, exec .ret s = .next t ∧
    t.sp.val = s.sp.val - 1 ∧ t.pc = s.stack[s.sp.val - 1]'(by omega) ∧ SameExcept { sp := true } s t) ∧
  ∀ s : State, s.sp.val = 0 → exec .ret s = .fault (.stackUnderflow s.pc 0x00EE)

/-- R61, R63 (S5): a 00EE executed with the stack as the 2NNN left it comes back to the instruction after the call, at
the depth before the call, whatever the subroutine did elsewhere. -/
def Obligations.CallThenReturnComesBack : Prop :=
  ∀ (s t u : State) (nnn : Addr12), exec (.call nnn) s = .next t → u.sp = t.sp → u.stack = t.stack →
    ∃ w, exec .ret u = .next w ∧ w.pc = s.pc + 2 ∧ w.sp = s.sp

/-- R64, R65: 3XNN skips iff V[X] = NN and 4XNN iff V[X] ≠ NN; nothing but PC changes. -/
def Obligations.ImmediateSkipsCompareWithNN : Prop :=
  DecodesFXB 0x3 .seImm ∧ DecodesFXB 0x4 .sneImm ∧
  ∀ (s : State) (x : RegIdx) (nn : Byte),
    (∃ t, exec (.seImm x nn) s = .next t ∧
      (s.readV x = nn → t.pc = s.pc + 4) ∧ (s.readV x ≠ nn → t.pc = s.pc + 2) ∧ SameExcept {} s t) ∧
    (∃ t, exec (.sneImm x nn) s = .next t ∧
      (s.readV x ≠ nn → t.pc = s.pc + 4) ∧ (s.readV x = nn → t.pc = s.pc + 2) ∧ SameExcept {} s t)

/-- R66, R67: 5XY0 skips iff V[X] = V[Y] and 9XY0 iff V[X] ≠ V[Y]; nothing but PC changes. -/
def Obligations.RegisterSkipsCompareRegisters : Prop :=
  DecodesFXY 0x5 0x0 .seReg ∧ DecodesFXY 0x9 0x0 .sneReg ∧
  ∀ (s : State) (x y : RegIdx),
    (∃ t, exec (.seReg x y) s = .next t ∧
      (s.readV x = s.readV y → t.pc = s.pc + 4) ∧ (s.readV x ≠ s.readV y → t.pc = s.pc + 2) ∧ SameExcept {} s t) ∧
    (∃ t, exec (.sneReg x y) s = .next t ∧
      (s.readV x ≠ s.readV y → t.pc = s.pc + 4) ∧ (s.readV x = s.readV y → t.pc = s.pc + 2) ∧ SameExcept {} s t)

/-! ## Register load, ALU, random -/

/-- R72, R73: 6XNN sets V[X] to NN and 7XNN adds NN modulo 256, with no flag: VF changes only as V[X]. -/
def Obligations.LoadAndAddImmediateWriteNoFlag : Prop :=
  DecodesFXB 0x6 .ldImm ∧ DecodesFXB 0x7 .addImm ∧
  ∀ (s : State) (x : RegIdx) (nn : Byte),
    (∃ t, exec (.ldImm x nn) s = .next t ∧ t.readV x = nn ∧ t.pc = s.pc + 2 ∧ SameExcept { regs := [x] } s t) ∧
    (∃ t, exec (.addImm x nn) s = .next t ∧ (t.readV x).toNat = ((s.readV x).toNat + nn.toNat) % 256 ∧
      t.pc = s.pc + 2 ∧ SameExcept { regs := [x] } s t)

/-- R74 to R77: 8XY0, 8XY1, 8XY2, 8XY3 copy, or, and, exclusive-or bit by bit, with no flag (R71). -/
def Obligations.CopyAndLogicWriteNoFlag : Prop :=
  DecodesFXY 0x8 0x0 .ldReg ∧ DecodesFXY 0x8 0x1 .orReg ∧ DecodesFXY 0x8 0x2 .andReg ∧ DecodesFXY 0x8 0x3 .xorReg ∧
  ∀ (s : State) (x y : RegIdx),
    (∃ t, exec (.ldReg x y) s = .next t ∧ t.readV x = s.readV y ∧ t.pc = s.pc + 2 ∧ SameExcept { regs := [x] } s t) ∧
    (∃ t, exec (.orReg x y) s = .next t ∧
      (∀ b < 8, (t.readV x).getLsbD b = ((s.readV x).getLsbD b || (s.readV y).getLsbD b)) ∧
      t.pc = s.pc + 2 ∧ SameExcept { regs := [x] } s t) ∧
    (∃ t, exec (.andReg x y) s = .next t ∧
      (∀ b < 8, (t.readV x).getLsbD b = ((s.readV x).getLsbD b && (s.readV y).getLsbD b)) ∧
      t.pc = s.pc + 2 ∧ SameExcept { regs := [x] } s t) ∧
    (∃ t, exec (.xorReg x y) s = .next t ∧
      (∀ b < 8, (t.readV x).getLsbD b = ((s.readV x).getLsbD b != (s.readV y).getLsbD b)) ∧
      t.pc = s.pc + 2 ∧ SameExcept { regs := [x] } s t)

/-- R78: 8XY4 leaves (a + b) mod 256 in V[X] and 1 in VF iff a + b > 255; with X = 15 the flag wins. -/
def Obligations.AddSetsTheCarry : Prop :=
  DecodesFXY 0x8 0x4 .addReg ∧
  ∀ (s : State) (x y : RegIdx), ∃ t, exec (.addReg x y) s = .next t ∧
    (x ≠ VF → (t.readV x).toNat = ((s.readV x).toNat + (s.readV y).toNat) % 256) ∧
    (t.readV VF).toNat = (if (s.readV x).toNat + (s.readV y).toNat > 255 then 1 else 0) ∧
    t.pc = s.pc + 2 ∧ SameExcept { regs := [x, VF] } s t

/-- R79, R81: 8XY5 leaves (a - b) mod 256 in V[X] and 1 in VF iff a ≥ b, for a = V[X] and b = V[Y]; 8XY7 the same with a
and b exchanged. -/
def Obligations.SubtractsSetNoBorrow : Prop :=
  DecodesFXY 0x8 0x5 .subReg ∧ DecodesFXY 0x8 0x7 .subnReg ∧
  ∀ (s : State) (x y : RegIdx),
    (∃ t, exec (.subReg x y) s = .next t ∧
      (x ≠ VF → (t.readV x).toNat = ((s.readV x).toNat + 256 - (s.readV y).toNat) % 256) ∧
      (t.readV VF).toNat = (if (s.readV x).toNat ≥ (s.readV y).toNat then 1 else 0) ∧
      t.pc = s.pc + 2 ∧ SameExcept { regs := [x, VF] } s t) ∧
    (∃ t, exec (.subnReg x y) s = .next t ∧
      (x ≠ VF → (t.readV x).toNat = ((s.readV y).toNat + 256 - (s.readV x).toNat) % 256) ∧
      (t.readV VF).toNat = (if (s.readV y).toNat ≥ (s.readV x).toNat then 1 else 0) ∧
      t.pc = s.pc + 2 ∧ SameExcept { regs := [x, VF] } s t)

/-- R80, R82: 8XY6 and 8XYE shift V[Y] or V[X] as SHIFT_USES_VY says, by one place, and leave the bit out in VF. -/
def Obligations.ShiftsPutTheBitOutInVF : Prop :=
  DecodesFXY 0x8 0x6 .shr ∧ DecodesFXY 0x8 0xE .shl ∧
  ∀ (s : State) (x y : RegIdx) (src : Byte),
    (s.cfg.shiftUsesVY = true → src = s.readV y) → (s.cfg.shiftUsesVY = false → src = s.readV x) →
    (∃ t, exec (.shr x y) s = .next t ∧ (x ≠ VF → (t.readV x).toNat = src.toNat / 2) ∧
      (t.readV VF).toNat = src.toNat % 2 ∧ t.pc = s.pc + 2 ∧ SameExcept { regs := [x, VF] } s t) ∧
    (∃ t, exec (.shl x y) s = .next t ∧ (x ≠ VF → (t.readV x).toNat = src.toNat * 2 % 256) ∧
      (t.readV VF).toNat = src.toNat / 128 ∧ t.pc = s.pc + 2 ∧ SameExcept { regs := [x, VF] } s t)

/-- R83: CXNN leaves r AND NN in V[X] for the byte r the random source supplies, whatever it is, with no flag; no bit is
set that NN has clear. The stream and its counter are the model's free value (log 7). -/
def Obligations.RandomIsMaskedByNN : Prop :=
  DecodesFXB 0xC .rnd ∧
  ∀ (s : State) (x : RegIdx) (nn : Byte), ∃ t, exec (.rnd x nn) s = .next t ∧
    (∀ b < 8, (t.readV x).getLsbD b = (s.rand8.getLsbD b && nn.getLsbD b)) ∧ t.draws = s.draws + 1 ∧
    t.pc = s.pc + 2 ∧ SameExcept { regs := [x], draws := true } s t

/-- R13: a flag-producing instruction leaves 0 or 1 in VF, also with X = 15; any other leaves VF alone unless VF is its
explicit destination. -/
def Obligations.VFIsAFlagOrUntouched : Prop :=
  ∀ (i : Instr) (s t : State), exec i s = .next t →
    (flagProducing i = true → t.readV VF = 0 ∨ t.readV VF = 1) ∧
    (flagProducing i = false → VF ∉ destinations i → t.readV VF = s.readV VF)

/-! ## Index register and memory -/

/-- R85, R86, R87: ANNN sets I to NNN, FX1E adds V[X] to it modulo 65536, FX29 sets it to FONT_BASE + 5 * (low nibble
of V[X]); none writes a flag or anything else. -/
def Obligations.IndexInstructionsSetIOnly : Prop :=
  DecodesFA 0xA .ldI ∧ DecodesFX 0xF 0x1E .addI ∧ DecodesFX 0xF 0x29 .ldF ∧
  (∀ (s : State) (nnn : Addr12), ∃ t, exec (.ldI nnn) s = .next t ∧ t.i.toNat = nnn.toNat ∧ t.pc = s.pc + 2 ∧
    SameExcept { index := true } s t) ∧
  ∀ (s : State) (x : RegIdx),
    (∃ t, exec (.addI x) s = .next t ∧ t.i.toNat = (s.i.toNat + (s.readV x).toNat) % 65536 ∧ t.pc = s.pc + 2 ∧
      SameExcept { index := true } s t) ∧
    (∃ t, exec (.ldF x) s = .next t ∧ t.i.toNat = s.cfg.fontBase.val + 5 * ((s.readV x).toNat % 16) ∧
      t.pc = s.pc + 2 ∧ SameExcept { index := true } s t)

/-- R88: FX33 stores the three decimal digits of V[X] at I, I+1, I+2 and no other byte; if I + 2 > 0xFFF it raises
DataOutOfRange. -/
def Obligations.BcdStoresThreeDigits : Prop :=
  DecodesFX 0xF 0x33 .ldB ∧
  (∀ (s : State) (x : RegIdx), Memory.wf s.cfg s.mem = true → s.i.toNat + 2 ≤ 0xFFF →
    ∃ t, exec (.ldB x) s = .next t ∧
      (t.byteAt s.i.toNat).toNat = (s.readV x).toNat / 100 ∧
      (t.byteAt (s.i.toNat + 1)).toNat = (s.readV x).toNat / 10 % 10 ∧
      (t.byteAt (s.i.toNat + 2)).toNat = (s.readV x).toNat % 10 ∧
      t.pc = s.pc + 2 ∧ SameExcept { bytes := addrRange s.i.toNat 3 } s t) ∧
  ∀ (s : State) (x : RegIdx), 0xFFF < s.i.toNat + 2 →
    exec (.ldB x) s = .fault (.dataOutOfRange s.pc (encode (.ldB x)) s.i)

/-- R89: FX55 stores V[0]..V[X] at I..I+X and no other byte, and adds X + 1 to I iff LDST_INCREMENTS_I; if I + X > 0xFFF
it raises DataOutOfRange. -/
def Obligations.StoreRegistersAscendFromIndex : Prop :=
  DecodesFX 0xF 0x55 .storeRegs ∧
  (∀ (s : State) (x : RegIdx), Memory.wf s.cfg s.mem = true → s.i.toNat + x.val ≤ 0xFFF →
    ∃ t, exec (.storeRegs x) s = .next t ∧
      (∀ k : RegIdx, k ≤ x → t.byteAt (s.i.toNat + k.val) = s.readV k) ∧
      t.i.toNat = (if s.cfg.ldstIncrementsI then s.i.toNat + x.val + 1 else s.i.toNat) ∧
      t.pc = s.pc + 2 ∧ SameExcept { index := true, bytes := addrRange s.i.toNat (x.val + 1) } s t) ∧
  ∀ (s : State) (x : RegIdx), 0xFFF < s.i.toNat + x.val →
    exec (.storeRegs x) s = .fault (.dataOutOfRange s.pc (encode (.storeRegs x)) s.i)

/-- R90: FX65 loads V[0]..V[X] from I..I+X and no other register, and adds X + 1 to I iff LDST_INCREMENTS_I; if
I + X > 0xFFF it raises DataOutOfRange. -/
def Obligations.LoadRegistersAscendFromIndex : Prop :=
  DecodesFX 0xF 0x65 .loadRegs ∧
  (∀ (s : State) (x : RegIdx), s.i.toNat + x.val ≤ 0xFFF →
    ∃ t, exec (.loadRegs x) s = .next t ∧
      (∀ k : RegIdx, k ≤ x → t.readV k = s.byteAt (s.i.toNat + k.val)) ∧
      t.i.toNat = (if s.cfg.ldstIncrementsI then s.i.toNat + x.val + 1 else s.i.toNat) ∧
      t.pc = s.pc + 2 ∧ SameExcept { index := true, regs := (List.finRange 16).filter (· ≤ x) } s t) ∧
  ∀ (s : State) (x : RegIdx), 0xFFF < s.i.toNat + x.val →
    exec (.loadRegs x) s = .fault (.dataOutOfRange s.pc (encode (.loadRegs x)) s.i)

/-- R89, R90 (T-MEM-19): registers stored by FX55 come back by an FX65 that meets the same memory with I at the block's
start, whatever the registers hold meanwhile. -/
def Obligations.StoreThenLoadRestoresTheRegisters : Prop :=
  ∀ (s t u : State) (x : RegIdx), Memory.wf s.cfg s.mem = true → exec (.storeRegs x) s = .next t →
    u.mem = t.mem → u.cfg = t.cfg → u.i = s.i →
    ∃ w, exec (.loadRegs x) u = .next w ∧ ∀ k : RegIdx, k ≤ x → w.readV k = s.readV k

/-- R41: after FX55 or FX33, a fetch at the stored bytes reads the stored bytes, with nothing between. -/
def Obligations.StoredBytesAreFetchedNext : Prop :=
  ∀ (s t : State) (x : RegIdx) (pc : Word), Memory.wf s.cfg s.mem = true →
    (exec (.storeRegs x) s = .next t → ∀ k k' : RegIdx, k'.val = k.val + 1 → k' ≤ x →
      pc.toNat = s.i.toNat + k.val → (t.setPc pc).fetchWord = wordOfBytes (s.readV k) (s.readV k')) ∧
    (exec (.ldB x) s = .next t → pc = s.i →
      (t.setPc pc).fetchWord.toNat = (s.readV x).toNat / 100 * 256 + (s.readV x).toNat / 10 % 10)

/-! ## Display -/

/-- R93: 00E0 turns every pixel off and writes no flag. -/
def Obligations.ClearTurnsEveryPixelOff : Prop :=
  decode 0x00E0 = some .cls ∧
  ∀ s : State, ∃ t, exec .cls s = .next t ∧ (∀ y x, t.display.pixel y x = false) ∧ t.pc = s.pc + 2 ∧
    SameExcept { display := true } s t

/-- R94: DXYN inverts exactly the pixels that a set bit of the sprite covers, every coordinate reduced modulo 64 and 32,
and leaves 1 in VF iff one of them was on; with N = 0 nothing is read or drawn and VF becomes 0. If N > 0 and
I + N - 1 > 0xFFF it raises DataOutOfRange. -/
def Obligations.DrawInvertsExactlyTheCoveredPixels : Prop :=
  (∀ op : Word, fieldT op = 0xD → decode op = some (.drw (fieldX op) (fieldY op) (fieldN op).toNat)) ∧
  (∀ (s : State) (x y : RegIdx) (n : Nat), n < 16 → (n = 0 ∨ s.i.toNat + n - 1 ≤ 0xFFF) →
    ∃ t, exec (.drw x y n) s = .next t ∧
      (∀ py px, SpriteCovers s x y n py px → t.display.pixel py px = !s.display.pixel py px) ∧
      (∀ py px, ¬ SpriteCovers s x y n py px → t.display.pixel py px = s.display.pixel py px) ∧
      ((∃ py px, SpriteCovers s x y n py px ∧ s.display.pixel py px = true) → t.readV VF = 1) ∧
      ((¬ ∃ py px, SpriteCovers s x y n py px ∧ s.display.pixel py px = true) → t.readV VF = 0) ∧
      t.pc = s.pc + 2 ∧ SameExcept { regs := [VF], display := true } s t) ∧
  ∀ (s : State) (x y : RegIdx) (n : Nat), n < 16 → n ≠ 0 → 0xFFF < s.i.toNat + n - 1 →
    exec (.drw x y n) s = .fault (.dataOutOfRange s.pc (encode (.drw x y n)) s.i)

/-- R95: the same DXYN twice, its coordinates unchanged between, restores the display; VF is 1 after the second iff some
covered pixel was off before the first. -/
def Obligations.DrawingTwiceRestoresTheDisplay : Prop :=
  ∀ (s t : State) (x y : RegIdx) (n : Nat), n < 16 → exec (.drw x y n) s = .next t →
    ((x ≠ VF ∧ y ≠ VF) ∨ t.readV VF = s.readV VF) →
    ∃ u, exec (.drw x y n) t = .next u ∧ u.display = s.display ∧
      (u.readV VF = 1 ↔ ∃ py px, SpriteCovers s x y n py px ∧ s.display.pixel py px = false)

/-- R111: GETDISPLAY answers the 2048 pixels row by row and changes nothing. -/
def Obligations.GetDisplayShowsEveryPixel : Prop :=
  ∀ s : State, ∃ view, deliver .getDisplay s = (s, .view view) ∧
    ∀ (y : Fin 32) (x : Fin 64), view[y.val * 64 + x.val]'(by omega) = s.display.pixel y x

/-! ## Keypad and timers -/

/-- R97, R98, R103: EX9E skips iff the key V[X] is pressed, EXA1 iff it is not; nothing but PC changes. With
V[X] > 15 both raise KeyIndexOutOfRange (R121). -/
def Obligations.KeySkipsTestOneKey : Prop :=
  DecodesFX 0xE 0x9E .skp ∧ DecodesFX 0xE 0xA1 .sknp ∧
  (∀ (s : State) (x : RegIdx) (k : KeyIdx), (s.readV x).toNat = k.val →
    (∃ t, exec (.skp x) s = .next t ∧
      (s.keys[k.val] = true → t.pc = s.pc + 4) ∧ (s.keys[k.val] = false → t.pc = s.pc + 2) ∧ SameExcept {} s t) ∧
    (∃ t, exec (.sknp x) s = .next t ∧
      (s.keys[k.val] = false → t.pc = s.pc + 4) ∧ (s.keys[k.val] = true → t.pc = s.pc + 2) ∧ SameExcept {} s t)) ∧
  ∀ (s : State) (x : RegIdx), 15 < (s.readV x).toNat →
    exec (.skp x) s = .fault (.keyIndexOutOfRange s.pc (encode (.skp x)) (s.readV x)) ∧
    exec (.sknp x) s = .fault (.keyIndexOutOfRange s.pc (encode (.sknp x)) (s.readV x))

/-- R99: FX0A stores the lowest pressed key and goes on, or with no key pressed sets W and WR and stays; a CYCLE with
W = 1 stores it in V[WR], clears W and goes on, or changes nothing. -/
def Obligations.KeyWaitStoresTheLowestKey : Prop :=
  DecodesFX 0xF 0x0A .ldVxK ∧
  (∀ (s : State) (x : RegIdx) (k : KeyIdx), LowestPressed s k →
    ∃ t, exec (.ldVxK x) s = .next t ∧ (t.readV x).toNat = k.val ∧ t.pc = s.pc + 2 ∧
      SameExcept { regs := [x] } s t) ∧
  (∀ (s : State) (x : RegIdx), NoKeyPressed s →
    ∃ t, exec (.ldVxK x) s = .next t ∧ t.waiting = true ∧ t.waitReg = x ∧ t.pc = s.pc ∧
      SameExcept { wait := true } s t) ∧
  (∀ (s : State) (k : KeyIdx), s.loaded = true → s.waiting = true → LowestPressed s k →
    ∃ t, applyEvent .cycle s = .next t ∧ (t.readV s.waitReg).toNat = k.val ∧ t.waiting = false ∧ t.pc = s.pc + 2 ∧
      SameExcept { regs := [s.waitReg], wait := true } s t) ∧
  ∀ s : State, s.loaded = true → s.waiting = true → NoKeyPressed s → applyEvent .cycle s = .next s

/-- R99, its last sentence: in a state that meets the invariant, a CYCLE with W = 1 does exactly what fetching and
executing the FX0A at PC again would do. -/
def Obligations.WaitingIsReexecutingTheFX0A : Prop :=
  ∀ s : State, CoreInv s → s.waiting = true → applyEvent .cycle s = applyEvent .cycle s.stopWaiting

/-- R100, R101, R102, R112: FX07 reads DT, FX15 writes DT, FX18 writes ST, each changing nothing else. -/
def Obligations.TimerMovesCopyOneByte : Prop :=
  DecodesFX 0xF 0x07 .ldVxDt ∧ DecodesFX 0xF 0x15 .ldDtVx ∧ DecodesFX 0xF 0x18 .ldStVx ∧
  ∀ (s : State) (x : RegIdx),
    (∃ t, exec (.ldVxDt x) s = .next t ∧ t.readV x = s.dt ∧ t.pc = s.pc + 2 ∧ SameExcept { regs := [x] } s t) ∧
    (∃ t, exec (.ldDtVx x) s = .next t ∧ t.dt = s.readV x ∧ t.pc = s.pc + 2 ∧ SameExcept { dt := true } s t) ∧
    (∃ t, exec (.ldStVx x) s = .next t ∧ t.st = s.readV x ∧ (soundActive t = true ↔ s.readV x ≠ 0) ∧
      t.pc = s.pc + 2 ∧ SameExcept { st := true } s t)

/-! ## Host events -/

/-- R107, R122: LOAD, in its place in the boot order, puts byte k of the image at 0x200 + k and changes no other byte
and nothing else of the core, PC included; an image over 3584 bytes is LoadTooLarge. (The model's own record of a LOAD
may change: log 9.) -/
def Obligations.LoadCopiesTheImage : Prop :=
  (∀ (s : State) (bytes : List Byte), Memory.wf s.cfg s.mem = true → s.loaded = false → bytes.length ≤ 3584 →
    ∃ t, applyEvent (.load bytes) s = .next t ∧ (∀ k (h : k < bytes.length), t.byteAt (0x200 + k) = bytes[k]) ∧
      t.pc = s.pc ∧ SameExcept { bytes := addrRange 0x200 bytes.length, loaded := true } s t) ∧
  ∀ (s : State) (bytes : List Byte), s.loaded = false → 3584 < bytes.length →
    applyEvent (.load bytes) s = .fault (.loadTooLarge bytes.length)

/-- R109: TICK takes 1 from each timer that is not 0 and changes nothing else. -/
def Obligations.TickCountsBothTimersDown : Prop :=
  ∀ s : State, ∃ t, applyEvent .tick s = .next t ∧ t.dt.toNat = s.dt.toNat - 1 ∧ t.st.toNat = s.st.toNat - 1 ∧
    t.pc = s.pc ∧ SameExcept { dt := true, st := true } s t

/-- R110: SETKEY sets one flag and changes nothing else. -/
def Obligations.SetKeySetsOneFlag : Prop :=
  ∀ (s : State) (k : KeyIdx) (p : Bool), ∃ t, applyEvent (.setKey k p) s = .next t ∧
    t.keys[k.val] = p ∧ (∀ j : KeyIdx, j ≠ k → t.keys[j.val] = s.keys[j.val]) ∧
    t.pc = s.pc ∧ SameExcept { keys := true } s t

/-- R112: the sound output, ST ≠ 0, changes only on FX18, on a TICK that takes ST from 1 to 0, and on RESET. -/
def Obligations.SoundChangesOnlyWhenItMay : Prop :=
  (∀ s : State, soundActive s = true ↔ s.st ≠ 0) ∧
  ∀ s t : State, step s = .next t → soundActive t ≠ soundActive s →
    (∃ x, Runs s (.ldStVx x)) ∨ (nextEvent s = .tick ∧ s.st = 1 ∧ t.st = 0) ∨ nextEvent s = .reset

/-! ## Rules of the whole machine -/

/-- R21: K is written only by SETKEY and RESET. -/
def Obligations.KeysChangeOnlyBySetKeyOrReset : Prop :=
  ∀ s t : State, step s = .next t → t.keys ≠ s.keys → (∃ k p, nextEvent s = .setKey k p) ∨ nextEvent s = .reset

/-- R20: D is written only by 00E0, DXYN and RESET. -/
def Obligations.DisplayChangesOnlyByItsWriters : Prop :=
  ∀ s t : State, step s = .next t → t.display ≠ s.display →
    Runs s .cls ∨ (∃ x y n, Runs s (.drw x y n)) ∨ nextEvent s = .reset

/-- R16: the call stack is written only by 2NNN, 00EE and RESET; a 00EE changes no slot. -/
def Obligations.StackChangesOnlyByCallReturnReset : Prop :=
  ∀ s t : State, step s = .next t →
    (t.sp ≠ s.sp → (∃ nnn, Runs s (.call nnn)) ∨ Runs s .ret ∨ nextEvent s = .reset) ∧
    (t.stack ≠ s.stack → (∃ nnn, Runs s (.call nnn)) ∨ nextEvent s = .reset)

/-- R17: DT changes only on FX15, TICK and RESET, ST only on FX18, TICK and RESET. -/
def Obligations.TimersChangeOnlyByTheirWriters : Prop :=
  ∀ s t : State, step s = .next t →
    (t.dt ≠ s.dt → (∃ x, Runs s (.ldDtVx x)) ∨ nextEvent s = .tick ∨ nextEvent s = .reset) ∧
    (t.st ≠ s.st → (∃ x, Runs s (.ldStVx x)) ∨ nextEvent s = .tick ∨ nextEvent s = .reset)

/-- R14: I is written only by ANNN, FX1E, FX29, by FX55 and FX65 when LDST_INCREMENTS_I is true, and by RESET. -/
def Obligations.IndexChangesOnlyByItsWriters : Prop :=
  ∀ s t : State, step s = .next t → t.i ≠ s.i →
    (∃ nnn, Runs s (.ldI nnn)) ∨ (∃ x, Runs s (.addI x)) ∨ (∃ x, Runs s (.ldF x)) ∨
    (s.cfg.ldstIncrementsI = true ∧ ∃ x, Runs s (.storeRegs x) ∨ Runs s (.loadRegs x)) ∨ nextEvent s = .reset

/-- R31: a byte of memory changes only by FX33 within I..I+2, by FX55 within I..I+X, by LOAD from 0x200, and by RESET. -/
def Obligations.MemoryChangesOnlyByItsWriters : Prop :=
  ∀ (s t : State) (a : Nat), step s = .next t → t.byteAt a ≠ s.byteAt a →
    (∃ x, Runs s (.ldB x) ∧ s.i.toNat ≤ a ∧ a ≤ s.i.toNat + 2) ∨
    (∃ x : RegIdx, Runs s (.storeRegs x) ∧ s.i.toNat ≤ a ∧ a ≤ s.i.toNat + x.val) ∨
    (∃ bytes, nextEvent s = .load bytes ∧ 0x200 ≤ a ∧ a < 0x200 + bytes.length) ∨ nextEvent s = .reset

/-- R60: an instruction leaves PC past itself, or past the next for a taken skip, or at the target of a transfer, or
unchanged for an FX0A with no key pressed. -/
def Obligations.PcIsSetInOneOfFourWays : Prop :=
  ∀ (i : Instr) (s t : State), exec i s = .next t →
    t.pc = s.pc + 2 ∨ (isSkip i = true ∧ t.pc = s.pc + 4) ∨ isTransfer i = true ∨
    (∃ x, i = .ldVxK x ∧ NoKeyPressed s ∧ t.pc = s.pc)

/-- R115, R118 to R121, R123: the faults of the execute step, each by its instructions on its condition and by no other;
no instruction is refused. `Refusal` is the model's own type, and that exec treats a DXYN term with N ≥ 16, no instruction,
as the others is the model's (log 24). -/
def Obligations.ExecutionFaultsAreExactlyTheListed : Prop :=
  ∀ (i : Instr) (s : State),
    (∀ pc op, exec i s = .fault (.stackOverflow pc op) ↔
      (∃ nnn, i = .call nnn) ∧ s.sp.val = 16 ∧ pc = s.pc ∧ op = encode i) ∧
    (∀ pc op, exec i s = .fault (.stackUnderflow pc op) ↔
      i = .ret ∧ s.sp.val = 0 ∧ pc = s.pc ∧ op = encode i) ∧
    (∀ pc op idx, exec i s = .fault (.dataOutOfRange pc op idx) ↔
      ((∃ x y n, i = .drw x y n ∧ n ≠ 0 ∧ 0xFFF < s.i.toNat + n - 1) ∨
       (∃ x, i = .ldB x ∧ 0xFFF < s.i.toNat + 2) ∨
       (∃ x : RegIdx, (i = .storeRegs x ∨ i = .loadRegs x) ∧ 0xFFF < s.i.toNat + x.val)) ∧
      pc = s.pc ∧ op = encode i ∧ idx = s.i) ∧
    (∀ pc op vx, exec i s = .fault (.keyIndexOutOfRange pc op vx) ↔
      (∃ x, (i = .skp x ∨ i = .sknp x) ∧ 15 < (s.readV x).toNat ∧ vx = s.readV x) ∧ pc = s.pc ∧ op = encode i) ∧
    (∀ pc, exec i s ≠ .fault (.fetchOutOfRange pc)) ∧ (∀ pc op, exec i s ≠ .fault (.unknownOpcode pc op)) ∧
    (∀ len, exec i s ≠ .fault (.loadTooLarge len)) ∧ (∀ r, exec i s ≠ .refused r)

/-- R117 to R121: the word a faulting CYCLE reports is the word it fetched, and the address is PC. That exec reports
`encode` of the instruction is the model's (log 23). -/
def Obligations.ReportedWordIsTheFetchedWord : Prop :=
  ∀ (s : State) (pc op : Word), nextEvent s = .cycle →
    (step s = .fault (.unknownOpcode pc op) ∨ step s = .fault (.stackOverflow pc op) ∨
      step s = .fault (.stackUnderflow pc op) ∨ (∃ idx, step s = .fault (.dataOutOfRange pc op idx)) ∨
      (∃ vx, step s = .fault (.keyIndexOutOfRange pc op vx))) →
    pc = s.pc ∧ op = s.fetchWord

/-- R108: a random byte is consumed if and only if the executed instruction is CXNN; the parameters never change (R23).
The counter is the model's (log 7). -/
def Obligations.OnlyRandomConsumesARandomByte : Prop :=
  ∀ s t : State, step s = .next t → t.cfg = s.cfg ∧
    ((∃ x nn, Runs s (.rnd x nn)) → t.draws = s.draws + 1) ∧
    ((¬ ∃ x nn, Runs s (.rnd x nn)) → t.draws = s.draws)

/-- R102, R17: no instruction reads ST: with another value in it, every instruction does the same and leaves that value,
or, for FX18, the value it writes. -/
def Obligations.NoInstructionReadsTheSoundTimer : Prop :=
  ∀ (i : Instr) (s : State) (b : Byte),
    ((∀ x, i ≠ .ldStVx x) → exec i (s.setSt b) = mapNext (fun t => t.setSt b) (exec i s)) ∧
    ((∃ x, i = .ldStVx x) → exec i (s.setSt b) = exec i s)

/-- R16, R20, R21, R31: only 00EE and 2NNN depend on the call stack, only 00E0 and DXYN on the display, and only EX9E,
EXA1 and FX0A on the keys: every other instruction does the same with other contents in them and leaves them alone. -/
def Obligations.StackDisplayKeysAreReadOnlyByTheirs : Prop :=
  ∀ (i : Instr) (s : State) (stack : Vector Word 16) (sp : Fin 17) (d : Display) (k : Vector Bool 16),
    ((i ≠ .ret ∧ ∀ nnn, i ≠ .call nnn) →
      exec i { s with stack := stack, sp := sp } =
        mapNext (fun t => { t with stack := stack, sp := sp }) (exec i s)) ∧
    ((i ≠ .cls ∧ ∀ x y n, i ≠ .drw x y n) →
      exec i { s with display := d } = mapNext (fun t => { t with display := d }) (exec i s)) ∧
    (((∀ x, i ≠ .skp x) ∧ (∀ x, i ≠ .sknp x) ∧ ∀ x, i ≠ .ldVxK x) →
      exec i { s with keys := k } = mapNext (fun t => { t with keys := k }) (exec i s))
end

