-- ==== Sys2Proof/Laws/Decode.lean ====
section
/-! SUPPORT. Fields and assembled words as numbers, fields of assembled words, and words assembled from their fields. -/

namespace Sys2Proof

@[simp] theorem regIdx_nib (x : RegIdx) : regIdx (nib x) = x := by
  apply Fin.ext; simp [regIdx, nib]

@[simp] theorem nib_regIdx (b : Nibble) : nib (regIdx b) = b := by
  simp [regIdx, nib]

/-! ### Fields as numbers (R47) -/

theorem toNat_fieldT (op : Word) : (fieldT op).toNat = op.toNat / 4096 := by
  have := op.isLt
  simp only [fieldT, BitVec.extractLsb'_toNat, Nat.shiftRight_eq_div_pow]; omega

theorem toNat_nibbleX (op : Word) : (nibbleX op).toNat = op.toNat / 256 % 16 := by
  simp only [nibbleX, BitVec.extractLsb'_toNat, Nat.shiftRight_eq_div_pow]

theorem toNat_nibbleY (op : Word) : (nibbleY op).toNat = op.toNat / 16 % 16 := by
  simp only [nibbleY, BitVec.extractLsb'_toNat, Nat.shiftRight_eq_div_pow]

theorem toNat_fieldN (op : Word) : (fieldN op).toNat = op.toNat % 16 := by
  simp only [fieldN, BitVec.extractLsb'_toNat, Nat.shiftRight_eq_div_pow]; omega

theorem toNat_fieldNN (op : Word) : (fieldNN op).toNat = op.toNat % 256 := by
  simp only [fieldNN, BitVec.extractLsb'_toNat, Nat.shiftRight_eq_div_pow]; omega

theorem toNat_fieldNNN (op : Word) : (fieldNNN op).toNat = op.toNat % 4096 := by
  simp only [fieldNNN, BitVec.extractLsb'_toNat, Nat.shiftRight_eq_div_pow]; omega

theorem val_fieldX (op : Word) : (fieldX op).val = op.toNat / 256 % 16 := toNat_nibbleX op

theorem val_fieldY (op : Word) : (fieldY op).val = op.toNat / 16 % 16 := toNat_nibbleY op

/-! ### Assembled words as numbers (R48) -/

theorem toNat_append {m n : Nat} (a : BitVec m) (b : BitVec n) : (a ++ b).toNat = a.toNat * 2 ^ n + b.toNat := by
  rw [BitVec.toNat_append, Nat.shiftLeft_eq, Nat.mul_comm, Nat.two_pow_add_eq_or_of_lt b.isLt]

theorem toNat_nib (x : RegIdx) : (nib x).toNat = x.val := by simp [nib]

theorem toNat_wordFA (t : Nibble) (nnn : Addr12) : (wordFA t nnn).toNat = t.toNat * 4096 + nnn.toNat :=
  toNat_append t nnn

theorem toNat_wordFXB (t : Nibble) (x : RegIdx) (nn : Byte) :
    (wordFXB t x nn).toNat = t.toNat * 4096 + x.val * 256 + nn.toNat := by
  rw [wordFXB, toNat_append, toNat_append, toNat_nib]; omega

theorem toNat_wordFXY (t : Nibble) (x y : RegIdx) (n : Nibble) :
    (wordFXY t x y n).toNat = t.toNat * 4096 + x.val * 256 + y.val * 16 + n.toNat := by
  rw [wordFXY, toNat_append, toNat_append, toNat_append, toNat_nib, toNat_nib]; omega

theorem toNat_wordOfBytes (hi lo : Byte) : (wordOfBytes hi lo).toNat = hi.toNat * 256 + lo.toNat :=
  toNat_append hi lo

/-! ### Fields of assembled words -/

@[simp] theorem fieldT_wordFA (t : Nibble) (nnn : Addr12) : fieldT (wordFA t nnn) = t := by
  apply BitVec.eq_of_toNat_eq; have := nnn.isLt; rw [toNat_fieldT, toNat_wordFA]; omega

@[simp] theorem fieldNNN_wordFA (t : Nibble) (nnn : Addr12) : fieldNNN (wordFA t nnn) = nnn := by
  apply BitVec.eq_of_toNat_eq; have := nnn.isLt; rw [toNat_fieldNNN, toNat_wordFA]; omega

@[simp] theorem fieldT_wordFXB (t : Nibble) (x : RegIdx) (nn : Byte) : fieldT (wordFXB t x nn) = t := by
  apply BitVec.eq_of_toNat_eq; have := nn.isLt; rw [toNat_fieldT, toNat_wordFXB]; omega

@[simp] theorem fieldX_wordFXB (t : Nibble) (x : RegIdx) (nn : Byte) : fieldX (wordFXB t x nn) = x := by
  apply Fin.ext; have := nn.isLt; rw [val_fieldX, toNat_wordFXB]; omega

@[simp] theorem fieldNN_wordFXB (t : Nibble) (x : RegIdx) (nn : Byte) : fieldNN (wordFXB t x nn) = nn := by
  apply BitVec.eq_of_toNat_eq; have := nn.isLt; rw [toNat_fieldNN, toNat_wordFXB]; omega

@[simp] theorem fieldT_wordFXY (t : Nibble) (x y : RegIdx) (n : Nibble) : fieldT (wordFXY t x y n) = t := by
  apply BitVec.eq_of_toNat_eq; have := n.isLt; rw [toNat_fieldT, toNat_wordFXY]; omega

@[simp] theorem fieldX_wordFXY (t : Nibble) (x y : RegIdx) (n : Nibble) : fieldX (wordFXY t x y n) = x := by
  apply Fin.ext; have := n.isLt; rw [val_fieldX, toNat_wordFXY]; omega

@[simp] theorem fieldY_wordFXY (t : Nibble) (x y : RegIdx) (n : Nibble) : fieldY (wordFXY t x y n) = y := by
  apply Fin.ext; have := n.isLt; rw [val_fieldY, toNat_wordFXY]; omega

@[simp] theorem fieldN_wordFXY (t : Nibble) (x y : RegIdx) (n : Nibble) : fieldN (wordFXY t x y n) = n := by
  apply BitVec.eq_of_toNat_eq; have := n.isLt; rw [toNat_fieldN, toNat_wordFXY]; omega

/-! ### Words assembled from their own fields -/

theorem wordFA_fields (op : Word) : wordFA (fieldT op) (fieldNNN op) = op := by
  apply BitVec.eq_of_toNat_eq; rw [toNat_wordFA, toNat_fieldT, toNat_fieldNNN]; omega

theorem wordFXB_fields (op : Word) : wordFXB (fieldT op) (fieldX op) (fieldNN op) = op := by
  apply BitVec.eq_of_toNat_eq; rw [toNat_wordFXB, toNat_fieldT, val_fieldX, toNat_fieldNN]; omega

theorem wordFXY_fields (op : Word) : wordFXY (fieldT op) (fieldX op) (fieldY op) (fieldN op) = op := by
  apply BitVec.eq_of_toNat_eq
  rw [toNat_wordFXY, toNat_fieldT, val_fieldX, val_fieldY, toNat_fieldN]; omega

/-- A word fetched from the bytes it is stored as is the word (R33). -/
theorem wordOfBytes_bytes (op : Word) : wordOfBytes (op.extractLsb' 8 8) (op.extractLsb' 0 8) = op := by
  apply BitVec.eq_of_toNat_eq
  rw [toNat_wordOfBytes]
  simp only [BitVec.extractLsb'_toNat, Nat.shiftRight_eq_div_pow]; omega

end Sys2Proof
end

