-- ==== Sys2Proof/Laws/State.lean ====
section
/-! SUPPORT. One lemma per field per named update of State, and what each update does to a register read and to a byte of
memory, so that no later proof unfolds an update. -/

namespace Sys2Proof.Machine

/-! ### writeV -/

@[simp] theorem State.writeV_mem (s : State) (x : RegIdx) (b : Byte) : (s.writeV x b).mem = s.mem := rfl
@[simp] theorem State.writeV_i (s : State) (x : RegIdx) (b : Byte) : (s.writeV x b).i = s.i := rfl
@[simp] theorem State.writeV_pc (s : State) (x : RegIdx) (b : Byte) : (s.writeV x b).pc = s.pc := rfl
@[simp] theorem State.writeV_stack (s : State) (x : RegIdx) (b : Byte) : (s.writeV x b).stack = s.stack := rfl
@[simp] theorem State.writeV_sp (s : State) (x : RegIdx) (b : Byte) : (s.writeV x b).sp = s.sp := rfl
@[simp] theorem State.writeV_dt (s : State) (x : RegIdx) (b : Byte) : (s.writeV x b).dt = s.dt := rfl
@[simp] theorem State.writeV_st (s : State) (x : RegIdx) (b : Byte) : (s.writeV x b).st = s.st := rfl
@[simp] theorem State.writeV_display (s : State) (x : RegIdx) (b : Byte) : (s.writeV x b).display = s.display := rfl
@[simp] theorem State.writeV_keys (s : State) (x : RegIdx) (b : Byte) : (s.writeV x b).keys = s.keys := rfl
@[simp] theorem State.writeV_waiting (s : State) (x : RegIdx) (b : Byte) : (s.writeV x b).waiting = s.waiting := rfl
@[simp] theorem State.writeV_waitReg (s : State) (x : RegIdx) (b : Byte) : (s.writeV x b).waitReg = s.waitReg := rfl
@[simp] theorem State.writeV_cfg (s : State) (x : RegIdx) (b : Byte) : (s.writeV x b).cfg = s.cfg := rfl
@[simp] theorem State.writeV_draws (s : State) (x : RegIdx) (b : Byte) : (s.writeV x b).draws = s.draws := rfl
@[simp] theorem State.writeV_pending (s : State) (x : RegIdx) (b : Byte) : (s.writeV x b).pending = s.pending := rfl
@[simp] theorem State.writeV_loaded (s : State) (x : RegIdx) (b : Byte) : (s.writeV x b).loaded = s.loaded := rfl
@[simp] theorem State.writeV_byteAt (s : State) (x : RegIdx) (b : Byte) (k : Nat) : (s.writeV x b).byteAt k = s.byteAt k := rfl

/-! ### writeResultFlag -/

@[simp] theorem State.writeResultFlag_mem (s : State) (x : RegIdx) (r f : Byte) : (s.writeResultFlag x r f).mem = s.mem := rfl
@[simp] theorem State.writeResultFlag_i (s : State) (x : RegIdx) (r f : Byte) : (s.writeResultFlag x r f).i = s.i := rfl
@[simp] theorem State.writeResultFlag_pc (s : State) (x : RegIdx) (r f : Byte) : (s.writeResultFlag x r f).pc = s.pc := rfl
@[simp] theorem State.writeResultFlag_stack (s : State) (x : RegIdx) (r f : Byte) : (s.writeResultFlag x r f).stack = s.stack := rfl
@[simp] theorem State.writeResultFlag_sp (s : State) (x : RegIdx) (r f : Byte) : (s.writeResultFlag x r f).sp = s.sp := rfl
@[simp] theorem State.writeResultFlag_dt (s : State) (x : RegIdx) (r f : Byte) : (s.writeResultFlag x r f).dt = s.dt := rfl
@[simp] theorem State.writeResultFlag_st (s : State) (x : RegIdx) (r f : Byte) : (s.writeResultFlag x r f).st = s.st := rfl
@[simp] theorem State.writeResultFlag_display (s : State) (x : RegIdx) (r f : Byte) : (s.writeResultFlag x r f).display = s.display := rfl
@[simp] theorem State.writeResultFlag_keys (s : State) (x : RegIdx) (r f : Byte) : (s.writeResultFlag x r f).keys = s.keys := rfl
@[simp] theorem State.writeResultFlag_waiting (s : State) (x : RegIdx) (r f : Byte) : (s.writeResultFlag x r f).waiting = s.waiting := rfl
@[simp] theorem State.writeResultFlag_waitReg (s : State) (x : RegIdx) (r f : Byte) : (s.writeResultFlag x r f).waitReg = s.waitReg := rfl
@[simp] theorem State.writeResultFlag_cfg (s : State) (x : RegIdx) (r f : Byte) : (s.writeResultFlag x r f).cfg = s.cfg := rfl
@[simp] theorem State.writeResultFlag_draws (s : State) (x : RegIdx) (r f : Byte) : (s.writeResultFlag x r f).draws = s.draws := rfl
@[simp] theorem State.writeResultFlag_pending (s : State) (x : RegIdx) (r f : Byte) : (s.writeResultFlag x r f).pending = s.pending := rfl
@[simp] theorem State.writeResultFlag_loaded (s : State) (x : RegIdx) (r f : Byte) : (s.writeResultFlag x r f).loaded = s.loaded := rfl
@[simp] theorem State.writeResultFlag_byteAt (s : State) (x : RegIdx) (r f : Byte) (k : Nat) : (s.writeResultFlag x r f).byteAt k = s.byteAt k := rfl

/-! ### setI -/

@[simp] theorem State.setI_mem (s : State) (w : Word) : (s.setI w).mem = s.mem := rfl
@[simp] theorem State.setI_v (s : State) (w : Word) : (s.setI w).v = s.v := rfl
@[simp] theorem State.setI_i (s : State) (w : Word) : (s.setI w).i = w := rfl
@[simp] theorem State.setI_pc (s : State) (w : Word) : (s.setI w).pc = s.pc := rfl
@[simp] theorem State.setI_stack (s : State) (w : Word) : (s.setI w).stack = s.stack := rfl
@[simp] theorem State.setI_sp (s : State) (w : Word) : (s.setI w).sp = s.sp := rfl
@[simp] theorem State.setI_dt (s : State) (w : Word) : (s.setI w).dt = s.dt := rfl
@[simp] theorem State.setI_st (s : State) (w : Word) : (s.setI w).st = s.st := rfl
@[simp] theorem State.setI_display (s : State) (w : Word) : (s.setI w).display = s.display := rfl
@[simp] theorem State.setI_keys (s : State) (w : Word) : (s.setI w).keys = s.keys := rfl
@[simp] theorem State.setI_waiting (s : State) (w : Word) : (s.setI w).waiting = s.waiting := rfl
@[simp] theorem State.setI_waitReg (s : State) (w : Word) : (s.setI w).waitReg = s.waitReg := rfl
@[simp] theorem State.setI_cfg (s : State) (w : Word) : (s.setI w).cfg = s.cfg := rfl
@[simp] theorem State.setI_draws (s : State) (w : Word) : (s.setI w).draws = s.draws := rfl
@[simp] theorem State.setI_pending (s : State) (w : Word) : (s.setI w).pending = s.pending := rfl
@[simp] theorem State.setI_loaded (s : State) (w : Word) : (s.setI w).loaded = s.loaded := rfl
@[simp] theorem State.setI_readV (s : State) (w : Word) (r : RegIdx) : (s.setI w).readV r = s.readV r := rfl
@[simp] theorem State.setI_byteAt (s : State) (w : Word) (k : Nat) : (s.setI w).byteAt k = s.byteAt k := rfl

/-! ### setPc -/

@[simp] theorem State.setPc_mem (s : State) (w : Word) : (s.setPc w).mem = s.mem := rfl
@[simp] theorem State.setPc_v (s : State) (w : Word) : (s.setPc w).v = s.v := rfl
@[simp] theorem State.setPc_i (s : State) (w : Word) : (s.setPc w).i = s.i := rfl
@[simp] theorem State.setPc_pc (s : State) (w : Word) : (s.setPc w).pc = w := rfl
@[simp] theorem State.setPc_stack (s : State) (w : Word) : (s.setPc w).stack = s.stack := rfl
@[simp] theorem State.setPc_sp (s : State) (w : Word) : (s.setPc w).sp = s.sp := rfl
@[simp] theorem State.setPc_dt (s : State) (w : Word) : (s.setPc w).dt = s.dt := rfl
@[simp] theorem State.setPc_st (s : State) (w : Word) : (s.setPc w).st = s.st := rfl
@[simp] theorem State.setPc_display (s : State) (w : Word) : (s.setPc w).display = s.display := rfl
@[simp] theorem State.setPc_keys (s : State) (w : Word) : (s.setPc w).keys = s.keys := rfl
@[simp] theorem State.setPc_waiting (s : State) (w : Word) : (s.setPc w).waiting = s.waiting := rfl
@[simp] theorem State.setPc_waitReg (s : State) (w : Word) : (s.setPc w).waitReg = s.waitReg := rfl
@[simp] theorem State.setPc_cfg (s : State) (w : Word) : (s.setPc w).cfg = s.cfg := rfl
@[simp] theorem State.setPc_draws (s : State) (w : Word) : (s.setPc w).draws = s.draws := rfl
@[simp] theorem State.setPc_pending (s : State) (w : Word) : (s.setPc w).pending = s.pending := rfl
@[simp] theorem State.setPc_loaded (s : State) (w : Word) : (s.setPc w).loaded = s.loaded := rfl
@[simp] theorem State.setPc_readV (s : State) (w : Word) (r : RegIdx) : (s.setPc w).readV r = s.readV r := rfl
@[simp] theorem State.setPc_byteAt (s : State) (w : Word) (k : Nat) : (s.setPc w).byteAt k = s.byteAt k := rfl

/-! ### advance -/

@[simp] theorem State.advance_mem (s : State) : (s.advance).mem = s.mem := rfl
@[simp] theorem State.advance_v (s : State) : (s.advance).v = s.v := rfl
@[simp] theorem State.advance_i (s : State) : (s.advance).i = s.i := rfl
@[simp] theorem State.advance_pc (s : State) : (s.advance).pc = s.pc + 2 := rfl
@[simp] theorem State.advance_stack (s : State) : (s.advance).stack = s.stack := rfl
@[simp] theorem State.advance_sp (s : State) : (s.advance).sp = s.sp := rfl
@[simp] theorem State.advance_dt (s : State) : (s.advance).dt = s.dt := rfl
@[simp] theorem State.advance_st (s : State) : (s.advance).st = s.st := rfl
@[simp] theorem State.advance_display (s : State) : (s.advance).display = s.display := rfl
@[simp] theorem State.advance_keys (s : State) : (s.advance).keys = s.keys := rfl
@[simp] theorem State.advance_waiting (s : State) : (s.advance).waiting = s.waiting := rfl
@[simp] theorem State.advance_waitReg (s : State) : (s.advance).waitReg = s.waitReg := rfl
@[simp] theorem State.advance_cfg (s : State) : (s.advance).cfg = s.cfg := rfl
@[simp] theorem State.advance_draws (s : State) : (s.advance).draws = s.draws := rfl
@[simp] theorem State.advance_pending (s : State) : (s.advance).pending = s.pending := rfl
@[simp] theorem State.advance_loaded (s : State) : (s.advance).loaded = s.loaded := rfl
@[simp] theorem State.advance_readV (s : State) (r : RegIdx) : (s.advance).readV r = s.readV r := rfl
@[simp] theorem State.advance_byteAt (s : State) (k : Nat) : (s.advance).byteAt k = s.byteAt k := rfl

/-! ### skip -/

@[simp] theorem State.skip_mem (s : State) : (s.skip).mem = s.mem := rfl
@[simp] theorem State.skip_v (s : State) : (s.skip).v = s.v := rfl
@[simp] theorem State.skip_i (s : State) : (s.skip).i = s.i := rfl
@[simp] theorem State.skip_pc (s : State) : (s.skip).pc = s.pc + 4 := rfl
@[simp] theorem State.skip_stack (s : State) : (s.skip).stack = s.stack := rfl
@[simp] theorem State.skip_sp (s : State) : (s.skip).sp = s.sp := rfl
@[simp] theorem State.skip_dt (s : State) : (s.skip).dt = s.dt := rfl
@[simp] theorem State.skip_st (s : State) : (s.skip).st = s.st := rfl
@[simp] theorem State.skip_display (s : State) : (s.skip).display = s.display := rfl
@[simp] theorem State.skip_keys (s : State) : (s.skip).keys = s.keys := rfl
@[simp] theorem State.skip_waiting (s : State) : (s.skip).waiting = s.waiting := rfl
@[simp] theorem State.skip_waitReg (s : State) : (s.skip).waitReg = s.waitReg := rfl
@[simp] theorem State.skip_cfg (s : State) : (s.skip).cfg = s.cfg := rfl
@[simp] theorem State.skip_draws (s : State) : (s.skip).draws = s.draws := rfl
@[simp] theorem State.skip_pending (s : State) : (s.skip).pending = s.pending := rfl
@[simp] theorem State.skip_loaded (s : State) : (s.skip).loaded = s.loaded := rfl
@[simp] theorem State.skip_readV (s : State) (r : RegIdx) : (s.skip).readV r = s.readV r := rfl
@[simp] theorem State.skip_byteAt (s : State) (k : Nat) : (s.skip).byteAt k = s.byteAt k := rfl

/-! ### skipIf -/

@[simp] theorem State.skipIf_mem (s : State) (c : Bool) : (s.skipIf c).mem = s.mem := by cases c <;> rfl
@[simp] theorem State.skipIf_v (s : State) (c : Bool) : (s.skipIf c).v = s.v := by cases c <;> rfl
@[simp] theorem State.skipIf_i (s : State) (c : Bool) : (s.skipIf c).i = s.i := by cases c <;> rfl
@[simp] theorem State.skipIf_pc (s : State) (c : Bool) : (s.skipIf c).pc = if c then s.pc + 4 else s.pc + 2 := by cases c <;> rfl
@[simp] theorem State.skipIf_stack (s : State) (c : Bool) : (s.skipIf c).stack = s.stack := by cases c <;> rfl
@[simp] theorem State.skipIf_sp (s : State) (c : Bool) : (s.skipIf c).sp = s.sp := by cases c <;> rfl
@[simp] theorem State.skipIf_dt (s : State) (c : Bool) : (s.skipIf c).dt = s.dt := by cases c <;> rfl
@[simp] theorem State.skipIf_st (s : State) (c : Bool) : (s.skipIf c).st = s.st := by cases c <;> rfl
@[simp] theorem State.skipIf_display (s : State) (c : Bool) : (s.skipIf c).display = s.display := by cases c <;> rfl
@[simp] theorem State.skipIf_keys (s : State) (c : Bool) : (s.skipIf c).keys = s.keys := by cases c <;> rfl
@[simp] theorem State.skipIf_waiting (s : State) (c : Bool) : (s.skipIf c).waiting = s.waiting := by cases c <;> rfl
@[simp] theorem State.skipIf_waitReg (s : State) (c : Bool) : (s.skipIf c).waitReg = s.waitReg := by cases c <;> rfl
@[simp] theorem State.skipIf_cfg (s : State) (c : Bool) : (s.skipIf c).cfg = s.cfg := by cases c <;> rfl
@[simp] theorem State.skipIf_draws (s : State) (c : Bool) : (s.skipIf c).draws = s.draws := by cases c <;> rfl
@[simp] theorem State.skipIf_pending (s : State) (c : Bool) : (s.skipIf c).pending = s.pending := by cases c <;> rfl
@[simp] theorem State.skipIf_loaded (s : State) (c : Bool) : (s.skipIf c).loaded = s.loaded := by cases c <;> rfl
@[simp] theorem State.skipIf_readV (s : State) (c : Bool) (r : RegIdx) : (s.skipIf c).readV r = s.readV r := by cases c <;> rfl
@[simp] theorem State.skipIf_byteAt (s : State) (c : Bool) (k : Nat) : (s.skipIf c).byteAt k = s.byteAt k := by cases c <;> rfl

/-! ### setDt -/

@[simp] theorem State.setDt_mem (s : State) (b : Byte) : (s.setDt b).mem = s.mem := rfl
@[simp] theorem State.setDt_v (s : State) (b : Byte) : (s.setDt b).v = s.v := rfl
@[simp] theorem State.setDt_i (s : State) (b : Byte) : (s.setDt b).i = s.i := rfl
@[simp] theorem State.setDt_pc (s : State) (b : Byte) : (s.setDt b).pc = s.pc := rfl
@[simp] theorem State.setDt_stack (s : State) (b : Byte) : (s.setDt b).stack = s.stack := rfl
@[simp] theorem State.setDt_sp (s : State) (b : Byte) : (s.setDt b).sp = s.sp := rfl
@[simp] theorem State.setDt_dt (s : State) (b : Byte) : (s.setDt b).dt = b := rfl
@[simp] theorem State.setDt_st (s : State) (b : Byte) : (s.setDt b).st = s.st := rfl
@[simp] theorem State.setDt_display (s : State) (b : Byte) : (s.setDt b).display = s.display := rfl
@[simp] theorem State.setDt_keys (s : State) (b : Byte) : (s.setDt b).keys = s.keys := rfl
@[simp] theorem State.setDt_waiting (s : State) (b : Byte) : (s.setDt b).waiting = s.waiting := rfl
@[simp] theorem State.setDt_waitReg (s : State) (b : Byte) : (s.setDt b).waitReg = s.waitReg := rfl
@[simp] theorem State.setDt_cfg (s : State) (b : Byte) : (s.setDt b).cfg = s.cfg := rfl
@[simp] theorem State.setDt_draws (s : State) (b : Byte) : (s.setDt b).draws = s.draws := rfl
@[simp] theorem State.setDt_pending (s : State) (b : Byte) : (s.setDt b).pending = s.pending := rfl
@[simp] theorem State.setDt_loaded (s : State) (b : Byte) : (s.setDt b).loaded = s.loaded := rfl
@[simp] theorem State.setDt_readV (s : State) (b : Byte) (r : RegIdx) : (s.setDt b).readV r = s.readV r := rfl
@[simp] theorem State.setDt_byteAt (s : State) (b : Byte) (k : Nat) : (s.setDt b).byteAt k = s.byteAt k := rfl

/-! ### setSt -/

@[simp] theorem State.setSt_mem (s : State) (b : Byte) : (s.setSt b).mem = s.mem := rfl
@[simp] theorem State.setSt_v (s : State) (b : Byte) : (s.setSt b).v = s.v := rfl
@[simp] theorem State.setSt_i (s : State) (b : Byte) : (s.setSt b).i = s.i := rfl
@[simp] theorem State.setSt_pc (s : State) (b : Byte) : (s.setSt b).pc = s.pc := rfl
@[simp] theorem State.setSt_stack (s : State) (b : Byte) : (s.setSt b).stack = s.stack := rfl
@[simp] theorem State.setSt_sp (s : State) (b : Byte) : (s.setSt b).sp = s.sp := rfl
@[simp] theorem State.setSt_dt (s : State) (b : Byte) : (s.setSt b).dt = s.dt := rfl
@[simp] theorem State.setSt_st (s : State) (b : Byte) : (s.setSt b).st = b := rfl
@[simp] theorem State.setSt_display (s : State) (b : Byte) : (s.setSt b).display = s.display := rfl
@[simp] theorem State.setSt_keys (s : State) (b : Byte) : (s.setSt b).keys = s.keys := rfl
@[simp] theorem State.setSt_waiting (s : State) (b : Byte) : (s.setSt b).waiting = s.waiting := rfl
@[simp] theorem State.setSt_waitReg (s : State) (b : Byte) : (s.setSt b).waitReg = s.waitReg := rfl
@[simp] theorem State.setSt_cfg (s : State) (b : Byte) : (s.setSt b).cfg = s.cfg := rfl
@[simp] theorem State.setSt_draws (s : State) (b : Byte) : (s.setSt b).draws = s.draws := rfl
@[simp] theorem State.setSt_pending (s : State) (b : Byte) : (s.setSt b).pending = s.pending := rfl
@[simp] theorem State.setSt_loaded (s : State) (b : Byte) : (s.setSt b).loaded = s.loaded := rfl
@[simp] theorem State.setSt_readV (s : State) (b : Byte) (r : RegIdx) : (s.setSt b).readV r = s.readV r := rfl
@[simp] theorem State.setSt_byteAt (s : State) (b : Byte) (k : Nat) : (s.setSt b).byteAt k = s.byteAt k := rfl

/-! ### startWaiting -/

@[simp] theorem State.startWaiting_mem (s : State) (x : RegIdx) : (s.startWaiting x).mem = s.mem := rfl
@[simp] theorem State.startWaiting_v (s : State) (x : RegIdx) : (s.startWaiting x).v = s.v := rfl
@[simp] theorem State.startWaiting_i (s : State) (x : RegIdx) : (s.startWaiting x).i = s.i := rfl
@[simp] theorem State.startWaiting_pc (s : State) (x : RegIdx) : (s.startWaiting x).pc = s.pc := rfl
@[simp] theorem State.startWaiting_stack (s : State) (x : RegIdx) : (s.startWaiting x).stack = s.stack := rfl
@[simp] theorem State.startWaiting_sp (s : State) (x : RegIdx) : (s.startWaiting x).sp = s.sp := rfl
@[simp] theorem State.startWaiting_dt (s : State) (x : RegIdx) : (s.startWaiting x).dt = s.dt := rfl
@[simp] theorem State.startWaiting_st (s : State) (x : RegIdx) : (s.startWaiting x).st = s.st := rfl
@[simp] theorem State.startWaiting_display (s : State) (x : RegIdx) : (s.startWaiting x).display = s.display := rfl
@[simp] theorem State.startWaiting_keys (s : State) (x : RegIdx) : (s.startWaiting x).keys = s.keys := rfl
@[simp] theorem State.startWaiting_waiting (s : State) (x : RegIdx) : (s.startWaiting x).waiting = true := rfl
@[simp] theorem State.startWaiting_waitReg (s : State) (x : RegIdx) : (s.startWaiting x).waitReg = x := rfl
@[simp] theorem State.startWaiting_cfg (s : State) (x : RegIdx) : (s.startWaiting x).cfg = s.cfg := rfl
@[simp] theorem State.startWaiting_draws (s : State) (x : RegIdx) : (s.startWaiting x).draws = s.draws := rfl
@[simp] theorem State.startWaiting_pending (s : State) (x : RegIdx) : (s.startWaiting x).pending = s.pending := rfl
@[simp] theorem State.startWaiting_loaded (s : State) (x : RegIdx) : (s.startWaiting x).loaded = s.loaded := rfl
@[simp] theorem State.startWaiting_readV (s : State) (x : RegIdx) (r : RegIdx) : (s.startWaiting x).readV r = s.readV r := rfl
@[simp] theorem State.startWaiting_byteAt (s : State) (x : RegIdx) (k : Nat) : (s.startWaiting x).byteAt k = s.byteAt k := rfl

/-! ### stopWaiting -/

@[simp] theorem State.stopWaiting_mem (s : State) : (s.stopWaiting).mem = s.mem := rfl
@[simp] theorem State.stopWaiting_v (s : State) : (s.stopWaiting).v = s.v := rfl
@[simp] theorem State.stopWaiting_i (s : State) : (s.stopWaiting).i = s.i := rfl
@[simp] theorem State.stopWaiting_pc (s : State) : (s.stopWaiting).pc = s.pc := rfl
@[simp] theorem State.stopWaiting_stack (s : State) : (s.stopWaiting).stack = s.stack := rfl
@[simp] theorem State.stopWaiting_sp (s : State) : (s.stopWaiting).sp = s.sp := rfl
@[simp] theorem State.stopWaiting_dt (s : State) : (s.stopWaiting).dt = s.dt := rfl
@[simp] theorem State.stopWaiting_st (s : State) : (s.stopWaiting).st = s.st := rfl
@[simp] theorem State.stopWaiting_display (s : State) : (s.stopWaiting).display = s.display := rfl
@[simp] theorem State.stopWaiting_keys (s : State) : (s.stopWaiting).keys = s.keys := rfl
@[simp] theorem State.stopWaiting_waiting (s : State) : (s.stopWaiting).waiting = false := rfl
@[simp] theorem State.stopWaiting_waitReg (s : State) : (s.stopWaiting).waitReg = s.waitReg := rfl
@[simp] theorem State.stopWaiting_cfg (s : State) : (s.stopWaiting).cfg = s.cfg := rfl
@[simp] theorem State.stopWaiting_draws (s : State) : (s.stopWaiting).draws = s.draws := rfl
@[simp] theorem State.stopWaiting_pending (s : State) : (s.stopWaiting).pending = s.pending := rfl
@[simp] theorem State.stopWaiting_loaded (s : State) : (s.stopWaiting).loaded = s.loaded := rfl
@[simp] theorem State.stopWaiting_readV (s : State) (r : RegIdx) : (s.stopWaiting).readV r = s.readV r := rfl
@[simp] theorem State.stopWaiting_byteAt (s : State) (k : Nat) : (s.stopWaiting).byteAt k = s.byteAt k := rfl

/-! ### storeBytes -/

@[simp] theorem State.storeBytes_mem (s : State) (a : Nat) (bs : List Byte) : (s.storeBytes a bs).mem = Memory.writeBytes s.cfg s.mem a bs := rfl
@[simp] theorem State.storeBytes_v (s : State) (a : Nat) (bs : List Byte) : (s.storeBytes a bs).v = s.v := rfl
@[simp] theorem State.storeBytes_i (s : State) (a : Nat) (bs : List Byte) : (s.storeBytes a bs).i = s.i := rfl
@[simp] theorem State.storeBytes_pc (s : State) (a : Nat) (bs : List Byte) : (s.storeBytes a bs).pc = s.pc := rfl
@[simp] theorem State.storeBytes_stack (s : State) (a : Nat) (bs : List Byte) : (s.storeBytes a bs).stack = s.stack := rfl
@[simp] theorem State.storeBytes_sp (s : State) (a : Nat) (bs : List Byte) : (s.storeBytes a bs).sp = s.sp := rfl
@[simp] theorem State.storeBytes_dt (s : State) (a : Nat) (bs : List Byte) : (s.storeBytes a bs).dt = s.dt := rfl
@[simp] theorem State.storeBytes_st (s : State) (a : Nat) (bs : List Byte) : (s.storeBytes a bs).st = s.st := rfl
@[simp] theorem State.storeBytes_display (s : State) (a : Nat) (bs : List Byte) : (s.storeBytes a bs).display = s.display := rfl
@[simp] theorem State.storeBytes_keys (s : State) (a : Nat) (bs : List Byte) : (s.storeBytes a bs).keys = s.keys := rfl
@[simp] theorem State.storeBytes_waiting (s : State) (a : Nat) (bs : List Byte) : (s.storeBytes a bs).waiting = s.waiting := rfl
@[simp] theorem State.storeBytes_waitReg (s : State) (a : Nat) (bs : List Byte) : (s.storeBytes a bs).waitReg = s.waitReg := rfl
@[simp] theorem State.storeBytes_cfg (s : State) (a : Nat) (bs : List Byte) : (s.storeBytes a bs).cfg = s.cfg := rfl
@[simp] theorem State.storeBytes_draws (s : State) (a : Nat) (bs : List Byte) : (s.storeBytes a bs).draws = s.draws := rfl
@[simp] theorem State.storeBytes_pending (s : State) (a : Nat) (bs : List Byte) : (s.storeBytes a bs).pending = s.pending := rfl
@[simp] theorem State.storeBytes_loaded (s : State) (a : Nat) (bs : List Byte) : (s.storeBytes a bs).loaded = s.loaded := rfl
@[simp] theorem State.storeBytes_readV (s : State) (a : Nat) (bs : List Byte) (r : RegIdx) : (s.storeBytes a bs).readV r = s.readV r := rfl

/-! ### setDisplay -/

@[simp] theorem State.setDisplay_mem (s : State) (d : Display) : (s.setDisplay d).mem = s.mem := rfl
@[simp] theorem State.setDisplay_v (s : State) (d : Display) : (s.setDisplay d).v = s.v := rfl
@[simp] theorem State.setDisplay_i (s : State) (d : Display) : (s.setDisplay d).i = s.i := rfl
@[simp] theorem State.setDisplay_pc (s : State) (d : Display) : (s.setDisplay d).pc = s.pc := rfl
@[simp] theorem State.setDisplay_stack (s : State) (d : Display) : (s.setDisplay d).stack = s.stack := rfl
@[simp] theorem State.setDisplay_sp (s : State) (d : Display) : (s.setDisplay d).sp = s.sp := rfl
@[simp] theorem State.setDisplay_dt (s : State) (d : Display) : (s.setDisplay d).dt = s.dt := rfl
@[simp] theorem State.setDisplay_st (s : State) (d : Display) : (s.setDisplay d).st = s.st := rfl
@[simp] theorem State.setDisplay_display (s : State) (d : Display) : (s.setDisplay d).display = d := rfl
@[simp] theorem State.setDisplay_keys (s : State) (d : Display) : (s.setDisplay d).keys = s.keys := rfl
@[simp] theorem State.setDisplay_waiting (s : State) (d : Display) : (s.setDisplay d).waiting = s.waiting := rfl
@[simp] theorem State.setDisplay_waitReg (s : State) (d : Display) : (s.setDisplay d).waitReg = s.waitReg := rfl
@[simp] theorem State.setDisplay_cfg (s : State) (d : Display) : (s.setDisplay d).cfg = s.cfg := rfl
@[simp] theorem State.setDisplay_draws (s : State) (d : Display) : (s.setDisplay d).draws = s.draws := rfl
@[simp] theorem State.setDisplay_pending (s : State) (d : Display) : (s.setDisplay d).pending = s.pending := rfl
@[simp] theorem State.setDisplay_loaded (s : State) (d : Display) : (s.setDisplay d).loaded = s.loaded := rfl
@[simp] theorem State.setDisplay_readV (s : State) (d : Display) (r : RegIdx) : (s.setDisplay d).readV r = s.readV r := rfl
@[simp] theorem State.setDisplay_byteAt (s : State) (d : Display) (k : Nat) : (s.setDisplay d).byteAt k = s.byteAt k := rfl

/-! ### consumeDraw -/

@[simp] theorem State.consumeDraw_mem (s : State) : (s.consumeDraw).mem = s.mem := rfl
@[simp] theorem State.consumeDraw_v (s : State) : (s.consumeDraw).v = s.v := rfl
@[simp] theorem State.consumeDraw_i (s : State) : (s.consumeDraw).i = s.i := rfl
@[simp] theorem State.consumeDraw_pc (s : State) : (s.consumeDraw).pc = s.pc := rfl
@[simp] theorem State.consumeDraw_stack (s : State) : (s.consumeDraw).stack = s.stack := rfl
@[simp] theorem State.consumeDraw_sp (s : State) : (s.consumeDraw).sp = s.sp := rfl
@[simp] theorem State.consumeDraw_dt (s : State) : (s.consumeDraw).dt = s.dt := rfl
@[simp] theorem State.consumeDraw_st (s : State) : (s.consumeDraw).st = s.st := rfl
@[simp] theorem State.consumeDraw_display (s : State) : (s.consumeDraw).display = s.display := rfl
@[simp] theorem State.consumeDraw_keys (s : State) : (s.consumeDraw).keys = s.keys := rfl
@[simp] theorem State.consumeDraw_waiting (s : State) : (s.consumeDraw).waiting = s.waiting := rfl
@[simp] theorem State.consumeDraw_waitReg (s : State) : (s.consumeDraw).waitReg = s.waitReg := rfl
@[simp] theorem State.consumeDraw_cfg (s : State) : (s.consumeDraw).cfg = s.cfg := rfl
@[simp] theorem State.consumeDraw_draws (s : State) : (s.consumeDraw).draws = s.draws + 1 := rfl
@[simp] theorem State.consumeDraw_pending (s : State) : (s.consumeDraw).pending = s.pending := rfl
@[simp] theorem State.consumeDraw_loaded (s : State) : (s.consumeDraw).loaded = s.loaded := rfl
@[simp] theorem State.consumeDraw_readV (s : State) (r : RegIdx) : (s.consumeDraw).readV r = s.readV r := rfl
@[simp] theorem State.consumeDraw_byteAt (s : State) (k : Nat) : (s.consumeDraw).byteAt k = s.byteAt k := rfl

/-! ### Register reads after a write -/

@[simp] theorem State.readV_writeV_self (s : State) (x : RegIdx) (b : Byte) : (s.writeV x b).readV x = b := by
  simp [State.readV, State.writeV]

theorem State.readV_writeV_of_ne (s : State) {x r : RegIdx} (b : Byte) (h : r ≠ x) :
    (s.writeV x b).readV r = s.readV r := by
  have h' : x.val ≠ r.val := fun e => h (Fin.ext e.symm)
  simp [State.readV, State.writeV, Vector.getElem_set_ne, h']

theorem State.readV_writeV (s : State) (x r : RegIdx) (b : Byte) :
    (s.writeV x b).readV r = if r = x then b else s.readV r := by
  by_cases h : r = x
  · subst h; simp
  · simp [h, State.readV_writeV_of_ne s b h]

theorem State.readV_writeResultFlag (s : State) (x r : RegIdx) (b f : Byte) :
    (s.writeResultFlag x b f).readV r = if r = VF then f else if r = x then b else s.readV r := by
  simp only [State.writeResultFlag, State.readV_writeV]

end Sys2Proof.Machine
end

