-- ==== Sys2Proof/Laws/Memory.lean ====
section
/-! SUPPORT. Memory: a read after a write, and that every operation keeps the canonical form (20_memory.md R36; log 30). -/

namespace Sys2Proof.Machine

open Sys2Proof.Config

/-- Outside the font, and always in the program area, memory is 0x00 after RESET (R18). -/
theorem resetByte_of_program (p : Params) {a : Nat} (h : 0x200 ≤ a) : resetByte p a = 0 := by
  simp [resetByte, h]

@[simp] theorem Memory.read_nil (p : Params) (a : Nat) : Memory.read p [] a = resetByte p a := rfl

@[simp] theorem Memory.read_cons (p : Params) (c : Host.Cell) (m : Memory) (a : Nat) :
    Memory.read p (c :: m) a = if c.1 = a then c.2 else Memory.read p m a := rfl

/-- The canonical form of a list with a head, unfolded once. -/
theorem Memory.wf_cons (p : Params) (c : Host.Cell) (m : Memory) :
    Memory.wf p (c :: m) = true ↔
      c.1 < 4096 ∧ c.2 ≠ resetByte p c.1 ∧ (∀ d ∈ m, c.1 < d.1) ∧ Memory.wf p m = true := by
  obtain ⟨k, b⟩ := c
  simp [Memory.wf, List.all_eq_true, and_assoc]

/-- An address below every listed one reads as after RESET. -/
theorem Memory.read_of_lt_all (p : Params) {m : Memory} {a : Nat} (h : ∀ d ∈ m, a < d.1) :
    Memory.read p m a = resetByte p a := by
  induction m with
  | nil => rfl
  | cons c m ih =>
    have hc : c.1 ≠ a := Nat.ne_of_gt (h c (by simp))
    simp [hc, ih fun d hd => h d (by simp [hd])]

theorem Memory.read_consCell (p : Params) (m : Memory) (a : Nat) (b : Byte) (h : ∀ d ∈ m, a < d.1) (k : Nat) :
    Memory.read p (Memory.consCell p a b m) k = if k = a then b else Memory.read p m k := by
  unfold Memory.consCell
  by_cases hk : k = a
  · subst hk; split <;> simp_all [Memory.read_of_lt_all p h]
  · split <;> simp [Ne.symm hk]

/-- A write to another address leaves a byte alone (R36). -/
theorem Memory.read_write_of_ne (p : Params) (m : Memory) {a k : Nat} (b : Byte) (h : k ≠ a) :
    Memory.read p (Memory.write p m a b) k = Memory.read p m k := by
  induction m with
  | nil => unfold Memory.write Memory.consCell; split <;> simp [Ne.symm h]
  | cons c m ih =>
    obtain ⟨k', b'⟩ := c
    unfold Memory.write Memory.consCell
    split
    · split <;> simp [Ne.symm h]
    · split
      · rename_i e; subst e; split <;> simp [Ne.symm h]
      · simp [ih]

/-- A write to memory in canonical form is what a later read of the address gives (R36). -/
theorem Memory.read_write_self (p : Params) {m : Memory} (hm : Memory.wf p m = true) (a : Nat) (b : Byte) :
    Memory.read p (Memory.write p m a b) a = b := by
  induction m with
  | nil => simp [Memory.write, Memory.read_consCell]
  | cons c m ih =>
    obtain ⟨k, b'⟩ := c
    obtain ⟨-, -, hall, hwf⟩ := (Memory.wf_cons p _ _).1 hm
    unfold Memory.write
    split
    · rename_i hlt
      rw [Memory.read_consCell _ _ _ _ (by
        intro d hd
        rcases List.mem_cons.1 hd with rfl | hd
        · exact hlt
        · exact Nat.lt_trans hlt (hall d hd))]
      simp
    · split
      · rename_i _ e; subst e
        rw [Memory.read_consCell _ _ _ _ hall]; simp
      · rename_i _ hne
        simp [Ne.symm hne, ih hwf]

theorem Memory.mem_consCell {p : Params} {m : Memory} {a : Nat} {b : Byte} {d : Host.Cell}
    (h : d ∈ Memory.consCell p a b m) : d.1 = a ∨ d ∈ m := by
  unfold Memory.consCell at h
  split at h
  · exact .inr h
  · rcases List.mem_cons.1 h with rfl | h
    · exact .inl rfl
    · exact .inr h

theorem Memory.mem_write {p : Params} {m : Memory} {a : Nat} {b : Byte} {d : Host.Cell}
    (h : d ∈ Memory.write p m a b) : d.1 = a ∨ d ∈ m := by
  induction m with
  | nil => exact Memory.mem_consCell h
  | cons c m ih =>
    obtain ⟨k, b'⟩ := c
    unfold Memory.write at h
    split at h
    · exact Memory.mem_consCell h
    · split at h
      · exact (Memory.mem_consCell h).imp id (List.mem_cons_of_mem _)
      · rcases List.mem_cons.1 h with rfl | h
        · exact .inr (by simp)
        · exact (ih h).imp id (List.mem_cons_of_mem _)

theorem Memory.wf_consCell (p : Params) {m : Memory} {a : Nat} (b : Byte) (hm : Memory.wf p m = true)
    (ha : a < 4096) (h : ∀ d ∈ m, a < d.1) : Memory.wf p (Memory.consCell p a b m) = true := by
  unfold Memory.consCell
  split
  · exact hm
  · exact (Memory.wf_cons p _ _).2 ⟨ha, ‹_›, h, hm⟩

/-- A write within memory keeps the canonical form. -/
theorem Memory.wf_write (p : Params) {m : Memory} (hm : Memory.wf p m = true) {a : Nat} (ha : a < 4096) (b : Byte) :
    Memory.wf p (Memory.write p m a b) = true := by
  induction m with
  | nil => exact Memory.wf_consCell p b rfl ha (by simp)
  | cons c m ih =>
    obtain ⟨k, b'⟩ := c
    obtain ⟨hk, hb, hall, hwf⟩ := (Memory.wf_cons p _ _).1 hm
    unfold Memory.write
    split
    · rename_i hlt
      refine Memory.wf_consCell p b hm ha fun d hd => ?_
      rcases List.mem_cons.1 hd with rfl | hd
      · exact hlt
      · exact Nat.lt_trans hlt (hall d hd)
    · split
      · rename_i _ e; subst e
        exact Memory.wf_consCell p b hwf ha hall
      · rename_i hle hne
        refine (Memory.wf_cons p _ _).2 ⟨hk, hb, fun d hd => ?_, ih hwf⟩
        rcases Memory.mem_write hd with e | hd
        · have : k < a := by omega
          simpa [e] using this
        · exact hall d hd

/-- Writing bytes within memory keeps the canonical form. -/
theorem Memory.wf_writeBytes (p : Params) {m : Memory} (hm : Memory.wf p m = true) (a : Nat) (bs : List Byte)
    (h : a + bs.length ≤ 4096) : Memory.wf p (Memory.writeBytes p m a bs) = true := by
  induction bs generalizing m a with
  | nil => exact hm
  | cons b bs ih =>
    simp only [List.length_cons] at h
    exact ih (Memory.wf_write p hm (by omega) b) (a + 1) (by omega)

/-- Writing bytes leaves every address outside their range alone. -/
theorem Memory.read_writeBytes_outside (p : Params) (m : Memory) (a : Nat) (bs : List Byte) {k : Nat}
    (h : k < a ∨ a + bs.length ≤ k) : Memory.read p (Memory.writeBytes p m a bs) k = Memory.read p m k := by
  induction bs generalizing m a with
  | nil => rfl
  | cons b bs ih =>
    simp only [List.length_cons] at h
    rw [Memory.writeBytes, ih _ _ (by omega), Memory.read_write_of_ne p m b (by omega)]

/-- Each byte written within memory is what a later read of its address gives. -/
theorem Memory.read_writeBytes_inside (p : Params) {m : Memory} (hm : Memory.wf p m = true) (a : Nat) (bs : List Byte)
    (h : a + bs.length ≤ 4096) (k : Nat) (hk : k < bs.length) :
    Memory.read p (Memory.writeBytes p m a bs) (a + k) = bs[k] := by
  induction bs generalizing m a k with
  | nil => simp at hk
  | cons b bs ih =>
    simp only [List.length_cons] at h hk
    have hw := Memory.wf_write p hm (a := a) (by omega) b
    cases k with
    | zero =>
      rw [Memory.writeBytes, Memory.read_writeBytes_outside p _ _ _ (by omega)]
      simpa using Memory.read_write_self p hm a b
    | succ k =>
      rw [Memory.writeBytes, show a + (k + 1) = a + 1 + k by omega]
      simpa using ih hw (a + 1) (by omega) k (by omega)

/-- The reset state's memory is in canonical form. -/
theorem State.reset_mem_wf : Memory.wf State.reset.cfg State.reset.mem = true := rfl

/-- A stored block leaves every byte outside it alone. -/
theorem State.storeBytes_byteAt_outside (s : State) (a : Nat) (bs : List Byte) {k : Nat}
    (h : k < a ∨ a + bs.length ≤ k) : (s.storeBytes a bs).byteAt k = s.byteAt k :=
  Memory.read_writeBytes_outside s.cfg s.mem a bs h

/-- Each byte of a block stored within memory is what a later read gives. -/
theorem State.storeBytes_byteAt_inside (s : State) (hm : Memory.wf s.cfg s.mem = true) (a : Nat) (bs : List Byte)
    (h : a + bs.length ≤ 4096) (k : Nat) (hk : k < bs.length) : (s.storeBytes a bs).byteAt (a + k) = bs[k] :=
  Memory.read_writeBytes_inside s.cfg hm a bs h k hk

end Sys2Proof.Machine
end

