-- ==== Sys2Proof/Laws/Ops.lean ====
section
/-! SUPPORT. One lemma per shared operation, saying once everything it can do; the step taken apart by event. -/

namespace Sys2Proof.Machine

open Sys2Proof.Config

/-! ### Range check (R35) -/

theorem rangeInMemory_iff (a len : Nat) : rangeInMemory a len = true ↔ len = 0 ∨ a + len ≤ 4096 := by
  simp only [rangeInMemory, decide_eq_true_eq]; omega

theorem withDataRange_of_inRange {i : Instr} {len : Nat} {s : State} {k : Result}
    (h : len = 0 ∨ s.i.toNat + len ≤ 4096) : withDataRange i len s k = k := by
  simp [withDataRange, (rangeInMemory_iff _ _).2 h]

theorem withDataRange_of_outside {i : Instr} {len : Nat} {s : State} {k : Result} (h0 : len ≠ 0)
    (h : 4096 < s.i.toNat + len) :
    withDataRange i len s k = .fault (.dataOutOfRange s.pc (encode i) s.i) := by
  have : ¬ rangeInMemory s.i.toNat len = true := by rw [rangeInMemory_iff]; omega
  simp [withDataRange, this, raise]

/-- The range check answers its continuation or DataOutOfRange. -/
theorem withDataRange_cases (i : Instr) (len : Nat) (s : State) (k : Result) :
    ((len = 0 ∨ s.i.toNat + len ≤ 4096) ∧ withDataRange i len s k = k) ∨
    (len ≠ 0 ∧ 4096 < s.i.toNat + len ∧
      withDataRange i len s k = .fault (.dataOutOfRange s.pc (encode i) s.i)) := by
  by_cases h : len = 0 ∨ s.i.toNat + len ≤ 4096
  · exact .inl ⟨h, withDataRange_of_inRange h⟩
  · have h0 : len ≠ 0 := fun e => h (.inl e)
    have h1 : 4096 < s.i.toNat + len := Nat.lt_of_not_le fun e => h (.inr e)
    exact .inr ⟨h0, h1, withDataRange_of_outside h0 h1⟩

/-- A range check at the same I and PC, of a result changed by `f`, is the check's result changed by `f`. -/
theorem withDataRange_mapNext (f : State → State) {i : Instr} {len : Nat} {s u : State} (hi : u.i = s.i)
    (hp : u.pc = s.pc) (k : Result) :
    withDataRange i len u (Safety.mapNext f k) = Safety.mapNext f (withDataRange i len s k) := by
  simp only [withDataRange, hi, hp]
  cases rangeInMemory s.i.toNat len <;> rfl

/-! ### Call stack (R16) -/

theorem State.push_of_lt (s : State) (w : Word) (h : s.sp.val < 16) :
    s.push w = some { s with stack := s.stack.set s.sp.val w h, sp := ⟨s.sp.val + 1, by omega⟩ } := by
  simp [State.push, h]

theorem State.push_of_full (s : State) (w : Word) (h : s.sp.val = 16) : s.push w = none := by
  simp [State.push, h]

theorem State.pop_of_pos (s : State) (h : 0 < s.sp.val) :
    s.pop = some (s.stack[s.sp.val - 1]'(by omega), { s with sp := ⟨s.sp.val - 1, by omega⟩ }) := by
  simp [State.pop, h]

theorem State.pop_of_empty (s : State) (h : s.sp.val = 0) : s.pop = none := by
  simp [State.pop, h]

/-! ### Keypad (R99, R103) -/

theorem State.firstKey_eq_some_iff (s : State) (k : KeyIdx) : s.firstKey = some k ↔ Safety.LowestPressed s k := by
  simp only [State.firstKey, Safety.LowestPressed]
  constructor
  · intro h
    refine ⟨by simpa using List.find?_some h, fun j hj => ?_⟩
    obtain ⟨_, as, bs, hl, hno⟩ := List.find?_eq_some_iff_append.1 h
    have hjm : j ∈ as ++ k :: bs := hl ▸ List.mem_finRange j
    rcases List.mem_append.1 hjm with hja | hjb
    · simpa using hno j hja
    · have hp : (as ++ k :: bs).Pairwise (· < ·) := hl ▸ List.pairwise_lt_finRange 16
      rw [List.pairwise_append, List.pairwise_cons] at hp
      rcases List.mem_cons.1 hjb with rfl | hjb
      · exact absurd hj (lt_irrefl _)
      · exact absurd (hp.2.1.1 j hjb) (lt_asymm hj)
  · rintro ⟨hk, hlow⟩
    cases hf : (List.finRange 16).find? (fun k => s.keys[k.val]) with
    | none => exact absurd hk (by simpa using List.find?_eq_none.1 hf k (List.mem_finRange k))
    | some j =>
      have hj : s.keys[j.val] = true := by simpa using List.find?_some hf
      rcases lt_trichotomy j k with h | h | h
      · simp [hlow j h] at hj
      · rw [h]
      · obtain ⟨_, as, bs, hl, hno⟩ := List.find?_eq_some_iff_append.1 hf
        have hkm : k ∈ as ++ j :: bs := hl ▸ List.mem_finRange k
        have hp : (as ++ j :: bs).Pairwise (· < ·) := hl ▸ List.pairwise_lt_finRange 16
        rw [List.pairwise_append, List.pairwise_cons] at hp
        rcases List.mem_append.1 hkm with ha | hb
        · exact absurd hk (by simpa using hno k ha)
        · rcases List.mem_cons.1 hb with rfl | hb
          · rfl
          · exact absurd (hp.2.1.1 k hb) (lt_asymm h)

theorem State.firstKey_eq_none_iff (s : State) : s.firstKey = none ↔ Safety.NoKeyPressed s := by
  simp [State.firstKey, Safety.NoKeyPressed, List.find?_eq_none]

/-- The keypad holds a lowest pressed key, or no pressed key. -/
theorem State.firstKey_cases (s : State) :
    (∃ k, s.firstKey = some k ∧ Safety.LowestPressed s k) ∨ (s.firstKey = none ∧ Safety.NoKeyPressed s) := by
  cases h : s.firstKey with
  | none => exact .inr ⟨rfl, s.firstKey_eq_none_iff.1 h⟩
  | some k => exact .inl ⟨k, rfl, (s.firstKey_eq_some_iff k).1 h⟩

theorem keyOf_of_lt (b : Byte) (h : b.toNat < 16) : keyOf b = some ⟨b.toNat, h⟩ := by simp [keyOf, h]

theorem keyOf_of_ge (b : Byte) (h : 16 ≤ b.toNat) : keyOf b = none := by simp [keyOf, h]

/-! ### Display (R20, R94) -/

@[simp] theorem Display.pixel_blank (y : Fin 32) (x : Fin 64) : Display.blank.pixel y x = false := by
  simp [Display.blank, Display.pixel]

/-- Flipping inverts one pixel and no other. -/
theorem Display.pixel_flip (d : Display) (y y' : Fin 32) (x x' : Fin 64) :
    (d.flip y x).pixel y' x' = if y' = y ∧ x' = x then !d.pixel y x else d.pixel y' x' := by
  simp only [Display.flip, Display.pixel]
  by_cases hy : y' = y
  · subst hy
    by_cases hx : x' = x
    · subst hx; simp
    · have : x.val ≠ x'.val := fun e => hx (Fin.ext e.symm)
      simp [hx, Vector.getElem_set_ne, this]
  · have : y.val ≠ y'.val := fun e => hy (Fin.ext e.symm)
    simp [hy, Vector.getElem_set_ne, this]

/-- Two displays with the same pixels are the same display. -/
theorem Display.ext_pixel {d e : Display} (h : ∀ y x, d.pixel y x = e.pixel y x) : d = e := by
  apply Vector.ext; intro y hy
  apply Vector.ext; intro x hx
  exact h ⟨y, hy⟩ ⟨x, hx⟩

/-! ### Timers (R109) -/

theorem toNat_countDown (t : Byte) : (countDown t).toNat = t.toNat - 1 := by
  unfold countDown
  split
  · rename_i h; simp [h]
  · rename_i h
    have : t.toNat ≠ 0 := fun e => h (BitVec.eq_of_toNat_eq (by simpa using e))
    have := t.isLt
    rw [BitVec.toNat_sub]; change (2 ^ 8 - 1 + t.toNat) % 2 ^ 8 = _; omega

/-! ### The step (R7, R108) -/

/-- A step runs the host's next event on the state with that event taken off the list. -/
theorem step_eq (s : State) : step s = applyEvent (Safety.nextEvent s) (Safety.taken s) := by
  unfold step Safety.nextEvent Safety.taken
  cases h : s.pending with
  | nil => simp only [List.headD_nil, List.tail_nil]; rw [← h]
  | cons e rest => rfl

/-- Everything a CYCLE can do. -/
theorem cycle_cases (s : State) :
    (s.loaded = false ∧ cycle s = .refused .cycleBeforeLoad) ∨
    (s.loaded = true ∧ s.waiting = true ∧ cycle s = .next (waitStep s)) ∨
    (s.loaded = true ∧ s.waiting = false ∧ 0xFFE < s.pc.toNat ∧ cycle s = .fault (.fetchOutOfRange s.pc)) ∨
    (s.loaded = true ∧ s.waiting = false ∧ s.pc.toNat ≤ 0xFFE ∧ decode s.fetchWord = none ∧
      cycle s = .fault (.unknownOpcode s.pc s.fetchWord)) ∨
    (∃ i, s.loaded = true ∧ s.waiting = false ∧ s.pc.toNat ≤ 0xFFE ∧ decode s.fetchWord = some i ∧
      cycle s = exec i s) := by
  unfold cycle executeCycle State.fetchInRange raise
  cases hl : s.loaded <;> cases hw : s.waiting <;> simp
  by_cases hp : s.pc.toNat ≤ 4094
  · cases hd : decode s.fetchWord <;> simp [hp]
  · simp [hp]; omega

/-- Everything a LOAD can do. -/
theorem loadProgram_cases (bytes : List Byte) (s : State) :
    (s.loaded = true ∧ loadProgram bytes s = .refused .loadOutOfOrder) ∨
    (s.loaded = false ∧ 3584 < bytes.length ∧ loadProgram bytes s = .fault (.loadTooLarge bytes.length)) ∨
    (s.loaded = false ∧ bytes.length ≤ 3584 ∧
      loadProgram bytes s = .next { s.storeBytes 0x200 bytes with loaded := true }) := by
  unfold loadProgram raise
  cases hl : s.loaded <;> simp
  by_cases hp : bytes.length ≤ 3584
  · simp [hp]
  · simp [hp, Nat.lt_of_not_le hp]

end Sys2Proof.Machine
end

