-- ==== Sys2Proof/Laws/Exec.lean ====
section
/-! SUPPORT. What an instruction that can fault or wait does when it goes on, what no instruction changes, and everything
a step can do. -/

namespace Sys2Proof.Machine

open Sys2Proof.Safety

theorem flagByte_eq (b : Bool) : flagByte b = 0 ∨ flagByte b = 1 := by cases b <;> decide

theorem toNat_flagByte (b : Bool) : (flagByte b).toNat = if b then 1 else 0 := by cases b <;> rfl

theorem toNat_keyByte (k : KeyIdx) : (keyByte k).toNat = k.val := by simp [keyByte]; omega

theorem regBlock_length (s : State) (x : RegIdx) : (regBlock s x).length = x.val + 1 := by simp [regBlock]

theorem regBlock_getElem (s : State) (x : RegIdx) (k : Nat) (h : k < (regBlock s x).length) :
    (regBlock s x)[k] = s.readV ⟨k, by rw [regBlock_length] at h; omega⟩ := by simp [regBlock, State.readV]

theorem mem_addrRange (a n k : Nat) : k ∈ addrRange a n ↔ a ≤ k ∧ k < a + n := by
  simp only [addrRange, List.mem_map, List.mem_range]
  constructor
  · rintro ⟨j, h, rfl⟩; omega
  · rintro ⟨h1, h2⟩; exact ⟨k - a, by omega, by omega⟩

/-! ### Going on, instruction by instruction -/

/-- A 00EE that goes on has an entry to pop. -/
theorem execRet_next {s t : State} (h : execRet s = .next t) : ∃ hp : 0 < s.sp.val,
    t = State.setPc { s with sp := ⟨s.sp.val - 1, by omega⟩ } (s.stack[s.sp.val - 1]'(by omega)) := by
  by_cases hp : 0 < s.sp.val
  · simp only [execRet, State.pop_of_pos s hp] at h; cases h; exact ⟨hp, rfl⟩
  · rw [execRet, State.pop_of_empty s (by omega)] at h; cases h

/-- A 2NNN that goes on has a free slot. -/
theorem execCall_next {s t : State} {nnn : Addr12} (h : execCall nnn s = .next t) : ∃ hp : s.sp.val < 16,
    t = State.setPc { s with stack := s.stack.set s.sp.val (s.pc + 2) hp, sp := ⟨s.sp.val + 1, by omega⟩ }
      (addrOf nnn) := by
  by_cases hp : s.sp.val < 16
  · simp only [execCall, State.push_of_lt s _ hp] at h; cases h; exact ⟨hp, rfl⟩
  · rw [execCall, State.push_of_full s _ (by omega)] at h; cases h

/-- A memory instruction that goes on passed its range check. -/
theorem withDataRange_next {i : Instr} {n : Nat} {s t u : State} (h : withDataRange i n s (.next u) = .next t) :
    t = u ∧ (n = 0 ∨ s.i.toNat + n ≤ 4096) := by
  rcases withDataRange_cases i n s (.next u) with ⟨h1, h2⟩ | ⟨-, -, h2⟩
  · rw [h2] at h; cases h; exact ⟨rfl, h1⟩
  · rw [h2] at h; cases h

/-- A key skip that goes on skips or does not. -/
theorem skipOnKey_next {i : Instr} {x : RegIdx} {level : Bool} {s t : State} (h : skipOnKey i x level s = .next t) :
    ∃ c, t = s.skipIf c := by
  unfold skipOnKey at h
  split at h
  · cases h
  · cases h; exact ⟨_, rfl⟩

/-- An FX0A completes with the lowest pressed key or starts to wait. -/
theorem execLdVxK_next {x : RegIdx} {s t : State} (h : execLdVxK x s = .next t) :
    (∃ k, LowestPressed s k ∧ t = (s.writeV x (keyByte k)).advance) ∨ (NoKeyPressed s ∧ t = s.startWaiting x) := by
  unfold execLdVxK at h
  rcases s.firstKey_cases with ⟨k, h1, h2⟩ | ⟨h1, h2⟩
  · rw [h1] at h; cases h; exact .inl ⟨k, h2, rfl⟩
  · rw [h1] at h; cases h; exact .inr ⟨h2, rfl⟩

/-- A waiting CYCLE completes with the lowest pressed key or does nothing. -/
theorem waitStep_cases (s : State) :
    (∃ k, LowestPressed s k ∧ waitStep s = (s.writeV s.waitReg (keyByte k)).stopWaiting.advance) ∨
    (NoKeyPressed s ∧ waitStep s = s) := by
  unfold waitStep
  rcases s.firstKey_cases with ⟨k, h1, h2⟩ | ⟨h1, h2⟩
  · rw [h1]; exact .inl ⟨k, h2, rfl⟩
  · rw [h1]; exact .inr ⟨h2, rfl⟩

/-! ### What no instruction changes -/

/-- No instruction changes the keys, the parameters, the host's list of events or the record of a LOAD. -/
theorem exec_next_same {i : Instr} {s t : State} (h : exec i s = .next t) :
    t.keys = s.keys ∧ t.cfg = s.cfg ∧ t.pending = s.pending ∧ t.loaded = s.loaded := by
  cases i <;> simp only [exec] at h
  case ret => obtain ⟨_, rfl⟩ := execRet_next h; exact ⟨rfl, rfl, rfl, rfl⟩
  case call => obtain ⟨_, rfl⟩ := execCall_next h; exact ⟨rfl, rfl, rfl, rfl⟩
  case drw => unfold execDrw at h; obtain ⟨rfl, -⟩ := withDataRange_next h; simp
  case ldB => unfold execLdB at h; obtain ⟨rfl, -⟩ := withDataRange_next h; simp
  case storeRegs => unfold execStoreRegs at h; obtain ⟨rfl, -⟩ := withDataRange_next h; simp
  case loadRegs => unfold execLoadRegs at h; obtain ⟨rfl, -⟩ := withDataRange_next h; simp
  case skp => obtain ⟨_, rfl⟩ := skipOnKey_next h; simp
  case sknp => obtain ⟨_, rfl⟩ := skipOnKey_next h; simp
  case ldVxK => rcases execLdVxK_next h with ⟨_, -, rfl⟩ | ⟨-, rfl⟩ <;> exact ⟨rfl, rfl, rfl, rfl⟩
  all_goals (cases h; simp)

/-! ### The step -/

/-- Everything a step can do when it goes on. -/
theorem step_next_cases {s t : State} (h : step s = .next t) :
    (nextEvent s = .reset ∧ t = resetCore (taken s)) ∨
    (∃ bytes, nextEvent s = .load bytes ∧ s.loaded = false ∧ bytes.length ≤ 3584 ∧
      t = { (taken s).storeBytes 0x200 bytes with loaded := true }) ∨
    (nextEvent s = .cycle ∧ s.loaded = true ∧ s.waiting = true ∧ t = waitStep (taken s)) ∨
    (∃ i, Runs s i ∧ exec i (taken s) = .next t) ∨
    (nextEvent s = .tick ∧ t = tick (taken s)) ∨
    (∃ k p, nextEvent s = .setKey k p ∧ t = setKey k p (taken s)) ∨
    (nextEvent s = .getDisplay ∧ t = taken s) := by
  rw [step_eq] at h
  cases he : nextEvent s <;> simp only [he, applyEvent] at h
  case reset => cases h; exact .inl ⟨rfl, rfl⟩
  case load bytes =>
    rcases loadProgram_cases bytes (taken s) with ⟨-, h1⟩ | ⟨-, -, h1⟩ | ⟨hl, hlen, h1⟩ <;> rw [h1] at h <;> cases h
    exact .inr (.inl ⟨bytes, rfl, hl, hlen, rfl⟩)
  case cycle =>
    rcases cycle_cases (taken s) with ⟨-, h1⟩ | ⟨hl, hw, h1⟩ | ⟨-, -, -, h1⟩ | ⟨-, -, -, -, h1⟩ | ⟨i, hl, hw, hp, hd, h1⟩ <;>
      rw [h1] at h
    · cases h
    · cases h; exact .inr (.inr (.inl ⟨rfl, hl, hw, rfl⟩))
    · cases h
    · cases h
    · exact .inr (.inr (.inr (.inl ⟨i, ⟨he, hl, hw, hp, hd⟩, h⟩)))
  case tick => cases h; exact .inr (.inr (.inr (.inr (.inl ⟨rfl, rfl⟩))))
  case setKey k p => cases h; exact .inr (.inr (.inr (.inr (.inr (.inl ⟨k, p, rfl, rfl⟩)))))
  case getDisplay => cases h; exact .inr (.inr (.inr (.inr (.inr (.inr ⟨rfl, rfl⟩)))))

end Sys2Proof.Machine
end

