-- ==== Sys2Proof/Laws/PerInstr.lean ====
section
/-! SUPPORT. Per instruction: its word is a word of the row of the opcode map that bears its name (R51). -/

namespace Sys2Proof.Laws.EncodesRow

/-- Some row of R51 has the instruction's name and takes its word. -/
def Statement (i : Instr) : Prop :=
  ∃ row ∈ opcodeTable, row.name = patternName i ∧ encode i &&& row.mask = row.pattern

theorem nib_zero : nib 0 = 0#4 := rfl

theorem mask_FA (t : Nibble) (nnn : Addr12) : wordFA t nnn &&& 0xF000 = wordFA t 0 := by
  apply BitVec.eq_of_getLsbD_eq; intro j hj
  simp only [wordFA, BitVec.getLsbD_and, BitVec.getLsbD_append]; interval_cases j <;> simp

theorem mask_FXB (t : Nibble) (x : RegIdx) (nn : Byte) : wordFXB t x nn &&& 0xF000 = wordFXB t 0 0 := by
  apply BitVec.eq_of_getLsbD_eq; intro j hj
  simp only [wordFXB, nib_zero, BitVec.getLsbD_and, BitVec.getLsbD_append]; interval_cases j <;> simp

theorem mask_FX (t : Nibble) (x : RegIdx) (nn : Byte) : wordFXB t x nn &&& 0xF0FF = wordFXB t 0 nn := by
  apply BitVec.eq_of_getLsbD_eq; intro j hj
  simp only [wordFXB, nib_zero, BitVec.getLsbD_and, BitVec.getLsbD_append]; interval_cases j <;> simp

theorem mask_FXY (t : Nibble) (x y : RegIdx) (n : Nibble) : wordFXY t x y n &&& 0xF00F = wordFXY t 0 0 n := by
  apply BitVec.eq_of_getLsbD_eq; intro j hj
  simp only [wordFXY, nib_zero, BitVec.getLsbD_and, BitVec.getLsbD_append]; interval_cases j <;> simp

theorem mask_FXYN (t : Nibble) (x y : RegIdx) (n : Nibble) : wordFXY t x y n &&& 0xF000 = wordFXY t 0 0 0 := by
  apply BitVec.eq_of_getLsbD_eq; intro j hj
  simp only [wordFXY, nib_zero, BitVec.getLsbD_and, BitVec.getLsbD_append]; interval_cases j <;> simp

theorem cls : Statement .cls :=
  ⟨⟨"00E0", 0xFFFF, 0x00E0⟩, by decide, rfl, by decide⟩

theorem ret : Statement .ret :=
  ⟨⟨"00EE", 0xFFFF, 0x00EE⟩, by decide, rfl, by decide⟩

theorem jp (nnn : Addr12) : Statement (.jp nnn) :=
  ⟨⟨"1NNN", 0xF000, 0x1000⟩, by decide, rfl, mask_FA _ _⟩

theorem call (nnn : Addr12) : Statement (.call nnn) :=
  ⟨⟨"2NNN", 0xF000, 0x2000⟩, by decide, rfl, mask_FA _ _⟩

theorem seImm (x : RegIdx) (nn : Byte) : Statement (.seImm x nn) :=
  ⟨⟨"3XNN", 0xF000, 0x3000⟩, by decide, rfl, mask_FXB _ _ _⟩

theorem sneImm (x : RegIdx) (nn : Byte) : Statement (.sneImm x nn) :=
  ⟨⟨"4XNN", 0xF000, 0x4000⟩, by decide, rfl, mask_FXB _ _ _⟩

theorem seReg (x y : RegIdx) : Statement (.seReg x y) :=
  ⟨⟨"5XY0", 0xF00F, 0x5000⟩, by decide, rfl, mask_FXY _ _ _ _⟩

theorem sneReg (x y : RegIdx) : Statement (.sneReg x y) :=
  ⟨⟨"9XY0", 0xF00F, 0x9000⟩, by decide, rfl, mask_FXY _ _ _ _⟩

theorem ldImm (x : RegIdx) (nn : Byte) : Statement (.ldImm x nn) :=
  ⟨⟨"6XNN", 0xF000, 0x6000⟩, by decide, rfl, mask_FXB _ _ _⟩

theorem addImm (x : RegIdx) (nn : Byte) : Statement (.addImm x nn) :=
  ⟨⟨"7XNN", 0xF000, 0x7000⟩, by decide, rfl, mask_FXB _ _ _⟩

theorem ldReg (x y : RegIdx) : Statement (.ldReg x y) :=
  ⟨⟨"8XY0", 0xF00F, 0x8000⟩, by decide, rfl, mask_FXY _ _ _ _⟩

theorem orReg (x y : RegIdx) : Statement (.orReg x y) :=
  ⟨⟨"8XY1", 0xF00F, 0x8001⟩, by decide, rfl, mask_FXY _ _ _ _⟩

theorem andReg (x y : RegIdx) : Statement (.andReg x y) :=
  ⟨⟨"8XY2", 0xF00F, 0x8002⟩, by decide, rfl, mask_FXY _ _ _ _⟩

theorem xorReg (x y : RegIdx) : Statement (.xorReg x y) :=
  ⟨⟨"8XY3", 0xF00F, 0x8003⟩, by decide, rfl, mask_FXY _ _ _ _⟩

theorem addReg (x y : RegIdx) : Statement (.addReg x y) :=
  ⟨⟨"8XY4", 0xF00F, 0x8004⟩, by decide, rfl, mask_FXY _ _ _ _⟩

theorem subReg (x y : RegIdx) : Statement (.subReg x y) :=
  ⟨⟨"8XY5", 0xF00F, 0x8005⟩, by decide, rfl, mask_FXY _ _ _ _⟩

theorem shr (x y : RegIdx) : Statement (.shr x y) :=
  ⟨⟨"8XY6", 0xF00F, 0x8006⟩, by decide, rfl, mask_FXY _ _ _ _⟩

theorem subnReg (x y : RegIdx) : Statement (.subnReg x y) :=
  ⟨⟨"8XY7", 0xF00F, 0x8007⟩, by decide, rfl, mask_FXY _ _ _ _⟩

theorem shl (x y : RegIdx) : Statement (.shl x y) :=
  ⟨⟨"8XYE", 0xF00F, 0x800E⟩, by decide, rfl, mask_FXY _ _ _ _⟩

theorem ldI (nnn : Addr12) : Statement (.ldI nnn) :=
  ⟨⟨"ANNN", 0xF000, 0xA000⟩, by decide, rfl, mask_FA _ _⟩

theorem jpV0 (nnn : Addr12) : Statement (.jpV0 nnn) :=
  ⟨⟨"BNNN", 0xF000, 0xB000⟩, by decide, rfl, mask_FA _ _⟩

theorem rnd (x : RegIdx) (nn : Byte) : Statement (.rnd x nn) :=
  ⟨⟨"CXNN", 0xF000, 0xC000⟩, by decide, rfl, mask_FXB _ _ _⟩

theorem drw (x y : RegIdx) (n : Nat) : Statement (.drw x y n) :=
  ⟨⟨"DXYN", 0xF000, 0xD000⟩, by decide, rfl, mask_FXYN _ _ _ _⟩

theorem skp (x : RegIdx) : Statement (.skp x) :=
  ⟨⟨"EX9E", 0xF0FF, 0xE09E⟩, by decide, rfl, mask_FX _ _ _⟩

theorem sknp (x : RegIdx) : Statement (.sknp x) :=
  ⟨⟨"EXA1", 0xF0FF, 0xE0A1⟩, by decide, rfl, mask_FX _ _ _⟩

theorem ldVxDt (x : RegIdx) : Statement (.ldVxDt x) :=
  ⟨⟨"FX07", 0xF0FF, 0xF007⟩, by decide, rfl, mask_FX _ _ _⟩

theorem ldDtVx (x : RegIdx) : Statement (.ldDtVx x) :=
  ⟨⟨"FX15", 0xF0FF, 0xF015⟩, by decide, rfl, mask_FX _ _ _⟩

theorem ldStVx (x : RegIdx) : Statement (.ldStVx x) :=
  ⟨⟨"FX18", 0xF0FF, 0xF018⟩, by decide, rfl, mask_FX _ _ _⟩

theorem ldVxK (x : RegIdx) : Statement (.ldVxK x) :=
  ⟨⟨"FX0A", 0xF0FF, 0xF00A⟩, by decide, rfl, mask_FX _ _ _⟩

theorem addI (x : RegIdx) : Statement (.addI x) :=
  ⟨⟨"FX1E", 0xF0FF, 0xF01E⟩, by decide, rfl, mask_FX _ _ _⟩

theorem ldF (x : RegIdx) : Statement (.ldF x) :=
  ⟨⟨"FX29", 0xF0FF, 0xF029⟩, by decide, rfl, mask_FX _ _ _⟩

theorem ldB (x : RegIdx) : Statement (.ldB x) :=
  ⟨⟨"FX33", 0xF0FF, 0xF033⟩, by decide, rfl, mask_FX _ _ _⟩

theorem storeRegs (x : RegIdx) : Statement (.storeRegs x) :=
  ⟨⟨"FX55", 0xF0FF, 0xF055⟩, by decide, rfl, mask_FX _ _ _⟩

theorem loadRegs (x : RegIdx) : Statement (.loadRegs x) :=
  ⟨⟨"FX65", 0xF0FF, 0xF065⟩, by decide, rfl, mask_FX _ _ _⟩

end Sys2Proof.Laws.EncodesRow
end

