-- ==== Sys2Proof/Tests/Slice0.lean ====
section
/-! SUPPORT. Tests. Expected values are those of spec/95_test_vectors.md, whose identifiers (S, T, P) are named, or are read
off the encodings of 30_encoding.md; the witness theorems show states that meet the hypotheses of the statements. -/

namespace Sys2Proof.Tests

open Sys2Proof Sys2Proof.Machine Sys2Proof.Safety

/-! ## Well-formedness -/

/-- A row count of 16 does not fit the 4-bit field N (R47); 15 does. -/
theorem test_wellFormed_refuses_sixteen_rows :
    Instr.wellFormed (.drw 0 0 16) = false ∧ Instr.wellFormed (.drw 0 0 15) = true := by decide

/-! ## Decoding: words written out from R48 and R51 -/

theorem test_decode_control :
    decode 0x00EE = some .ret ∧ decode 0x1ABC = some (.jp 0xABC) ∧ decode 0x2ABC = some (.call 0xABC) ∧
    decode 0x31F0 = some (.seImm 1 0xF0) ∧ decode 0x4E0F = some (.sneImm 14 0x0F) ∧
    decode 0x5230 = some (.seReg 2 3) ∧ decode 0x9F10 = some (.sneReg 15 1) ∧ decode 0xB300 = some (.jpV0 0x300) := by
  decide

theorem test_decode_alu :
    decode 0x6A05 = some (.ldImm 10 0x05) ∧ decode 0x7A10 = some (.addImm 10 0x10) ∧
    decode 0x8120 = some (.ldReg 1 2) ∧ decode 0x8121 = some (.orReg 1 2) ∧ decode 0x8122 = some (.andReg 1 2) ∧
    decode 0x8123 = some (.xorReg 1 2) ∧ decode 0x8AB4 = some (.addReg 10 11) ∧ decode 0x8015 = some (.subReg 0 1) ∧
    decode 0x8346 = some (.shr 3 4) ∧ decode 0x8017 = some (.subnReg 0 1) ∧ decode 0x834E = some (.shl 3 4) ∧
    decode 0xC30F = some (.rnd 3 0x0F) := by
  decide

theorem test_decode_index_and_display :
    decode 0xAFFF = some (.ldI 0xFFF) ∧ decode 0xF21E = some (.addI 2) ∧ decode 0xF229 = some (.ldF 2) ∧
    decode 0xF733 = some (.ldB 7) ∧ decode 0xFF55 = some (.storeRegs 15) ∧ decode 0xF265 = some (.loadRegs 2) ∧
    decode 0x00E0 = some .cls ∧ decode 0xD125 = some (.drw 1 2 5) := by
  decide

theorem test_decode_keypad_and_timers :
    decode 0xE49E = some (.skp 4) ∧ decode 0xE4A1 = some (.sknp 4) ∧ decode 0xF50A = some (.ldVxK 5) ∧
    decode 0xF107 = some (.ldVxDt 1) ∧ decode 0xF015 = some (.ldDtVx 0) ∧ decode 0xFA18 = some (.ldStVx 10) := by
  decide

/-- T-ENC-7 to T-ENC-17. -/
theorem test_decode_unknown :
    [0x0000, 0x0200, 0x00E1, 0x5121, 0x912F, 0x8128, 0x812F, 0xE19F, 0xF100, 0xF175, 0xFFFF].all
      (fun op : Word => decide (decode op = none)) = true := by
  decide

/-- The word is big-endian (R33): its first byte is the high one, and one byte alone is no instruction (R46). -/
theorem test_decodeBytes :
    decodeBytes [0xD1, 0x25, 0x60] = .ok (.drw 1 2 5, [0x60]) ∧ decodeBytes [0xD1] = .error .truncated ∧
    encodeBytes (.drw 1 2 5) = [0xD1, 0x25] := ⟨rfl, rfl, rfl⟩

theorem test_decodeTableWord :
    decodeTableWord 16 0xD125 = some (.drw 1 2 5) ∧ decodeTableWord 16 0x8128 = none := by decide

/-! ## One step -/

/-- A loaded core with registers preset and PC at an address. -/
def at' (pc : Word) (regs : List (RegIdx × Byte)) : State :=
  regs.foldl (fun s r => s.writeV r.1 r.2) { State.reset with loaded := true, pc := pc }

/-- The core with I set and bytes stored. -/
def withData (s : State) (i : Word) (bs : List Byte) : State := (s.setI i).storeBytes i.toNat bs

/-- One CYCLE with the word at PC ends in a state with the property. -/
def after (s : State) (w : Nat) (p : State → Bool) : Bool :=
  match step (s.withFetchWord 16 w) with
  | .next t => p t
  | .fault _ => false
  | .refused _ => false

/-- One CYCLE with the word at PC faults so. -/
def faultsWith (s : State) (w : Nat) (f : Fault) : Bool :=
  match step (s.withFetchWord 16 w) with
  | .next _ => false
  | .fault e => e == f
  | .refused _ => false

/-! ### Control transfer -/

/-- T-CF-14. -/
theorem test_ret_underflow : faultsWith (at' 0x200 []) 0x00EE (.stackUnderflow 0x200 0x00EE) = true := by decide
/-- T-CF-11, second half. -/
theorem test_ret : after { at' 0x210 [] with sp := 1, stack := Vector.replicate 16 0x020A } 0x00EE
    (fun t => t.pc == 0x20A && t.sp == 0 && t.stack[0] == 0x20A) = true := by decide
/-- T-CF-1, T-CF-2. -/
theorem test_jp : after (at' 0x200 []) 0x1ABC (fun t => t.pc == 0xABC) = true ∧
    after (at' 0x200 []) 0x1201 (fun t => t.pc == 0x201) = true := by decide
/-- T-CF-16. -/
theorem test_call : after (at' 0xFFE []) 0x2ABC
    (fun t => t.stack[0] == 0x1000 && t.sp == 1 && t.pc == 0xABC) = true := by decide
/-- T-CF-15, CYCLE 17. -/
theorem test_call_overflow :
    faultsWith { at' 0x200 [] with sp := 16 } 0x2200 (.stackOverflow 0x200 0x2200) = true := by decide
/-- T-CF-3, T-CF-4. -/
theorem test_seImm : after (at' 0x208 []) 0x3100 (fun t => t.pc == 0x20C) = true ∧
    after (at' 0x208 [(1, 1)]) 0x3100 (fun t => t.pc == 0x20A) = true := by decide
/-- T-CF-5, T-CF-6. -/
theorem test_sneImm : after (at' 0x208 []) 0x4100 (fun t => t.pc == 0x20A) = true ∧
    after (at' 0x208 [(1, 1)]) 0x4100 (fun t => t.pc == 0x20C) = true := by decide
/-- T-CF-7, T-CF-8. -/
theorem test_seReg : after (at' 0x300 [(2, 7), (3, 7)]) 0x5230 (fun t => t.pc == 0x304) = true ∧
    after (at' 0x300 [(2, 7), (3, 8)]) 0x5230 (fun t => t.pc == 0x302) = true := by decide
/-- T-CF-9, T-CF-10. -/
theorem test_sneReg : after (at' 0x300 [(2, 7), (3, 7)]) 0x9230 (fun t => t.pc == 0x302) = true ∧
    after (at' 0x300 [(2, 7), (3, 8)]) 0x9230 (fun t => t.pc == 0x304) = true := by decide
/-- T-CF-12, T-CF-13. -/
theorem test_jpV0 : after (at' 0x200 [(0, 4)]) 0xB300 (fun t => t.pc == 0x304) = true ∧
    after (at' 0x200 [(0, 0xFF)]) 0xBFFF (fun t => t.pc == 0x10FE) = true := by decide
/-- T-CF-13, its next CYCLE. -/
theorem test_fetch_fault : step (at' 0x10FE []) = .fault (.fetchOutOfRange 0x10FE) := rfl
/-- T-HOST-4, its CYCLE. -/
theorem test_unknown_fault : step (at' 0x200 []) = .fault (.unknownOpcode 0x200 0x0000) := rfl

/-! ### Register load, ALU, random -/

/-- T-ALU-34. -/
theorem test_ldImm : after (at' 0x200 []) 0x6FAB (fun t => t.readV 15 == 0xAB && t.pc == 0x202) = true := by decide
/-- T-ALU-31, T-ALU-32. -/
theorem test_addImm : after (at' 0x200 [(10, 0xFF)]) 0x7A01 (fun t => t.readV 10 == 0 && t.readV 15 == 0) = true ∧
    after (at' 0x200 [(15, 0xFF)]) 0x7F02 (fun t => t.readV 15 == 1) = true := by decide
/-- T-ALU-30. -/
theorem test_ldReg : after (at' 0x200 [(2, 0x7C)]) 0x8120 (fun t => t.readV 1 == 0x7C && t.readV 2 == 0x7C) = true := by
  decide
/-- T-ALU-26. -/
theorem test_orReg : after (at' 0x200 [(1, 0x0F), (2, 0xF0), (15, 1)]) 0x8121
    (fun t => t.readV 1 == 0xFF && t.readV 15 == 1) = true := by decide
/-- T-ALU-27. -/
theorem test_andReg : after (at' 0x200 [(1, 0x3C), (2, 0x0F), (15, 1)]) 0x8122
    (fun t => t.readV 1 == 0x0C && t.readV 15 == 1) = true := by decide
/-- T-ALU-28. -/
theorem test_xorReg : after (at' 0x200 [(1, 0xFF), (2, 0x0F), (15, 1)]) 0x8123
    (fun t => t.readV 1 == 0xF0 && t.readV 15 == 1) = true := by decide
/-- T-ALU-1, T-ALU-3. -/
theorem test_addReg : after (at' 0x200 [(0, 0xC8), (1, 0x64)]) 0x8014
    (fun t => t.readV 0 == 0x2C && t.readV 15 == 1) = true ∧
    after (at' 0x200 [(0, 0x80), (1, 0x7F), (15, 1)]) 0x8014
      (fun t => t.readV 0 == 0xFF && t.readV 15 == 0) = true := by decide
/-- T-ALU-6, T-ALU-7. -/
theorem test_addReg_flag_wins : after (at' 0x200 [(15, 0xF0), (1, 0x20)]) 0x8F14 (fun t => t.readV 15 == 1) = true ∧
    after (at' 0x200 [(0, 0xFE), (15, 3)]) 0x80F4 (fun t => t.readV 0 == 1 && t.readV 15 == 1) = true := by decide
/-- T-ALU-8, T-ALU-10. -/
theorem test_subReg : after (at' 0x200 [(0, 5), (1, 10)]) 0x8015 (fun t => t.readV 0 == 0xFB && t.readV 15 == 0) = true ∧
    after (at' 0x200 [(0, 0x33), (1, 0x33)]) 0x8015 (fun t => t.readV 0 == 0 && t.readV 15 == 1) = true := by decide
/-- T-ALU-12. -/
theorem test_subReg_flag_wins : after (at' 0x200 [(15, 5), (1, 10)]) 0x8F15 (fun t => t.readV 15 == 0) = true := by decide
/-- T-ALU-16, T-ALU-17. -/
theorem test_shr : after (at' 0x200 [(3, 5), (4, 8)]) 0x8346
    (fun t => t.readV 3 == 2 && t.readV 4 == 8 && t.readV 15 == 1) = true ∧
    after { at' 0x200 [(3, 5), (4, 8)] with cfg := { defaultParams with shiftUsesVY := true } } 0x8346
      (fun t => t.readV 3 == 4 && t.readV 4 == 8 && t.readV 15 == 0) = true := by decide
/-- T-ALU-19, T-ALU-25. -/
theorem test_shr_logical : after (at' 0x200 [(3, 0xFF)]) 0x8346 (fun t => t.readV 3 == 0x7F && t.readV 15 == 1) = true ∧
    after (at' 0x200 [(15, 2)]) 0x8F06 (fun t => t.readV 15 == 0) = true := by decide
/-- T-ALU-13, T-ALU-14. -/
theorem test_subnReg : after (at' 0x200 [(0, 5), (1, 10)]) 0x8017 (fun t => t.readV 0 == 5 && t.readV 15 == 1) = true ∧
    after (at' 0x200 [(0, 10), (1, 5)]) 0x8017 (fun t => t.readV 0 == 0xFB && t.readV 15 == 0) = true := by decide
/-- T-ALU-20, T-ALU-21. -/
theorem test_shl : after (at' 0x200 [(3, 0x81), (4, 8)]) 0x834E (fun t => t.readV 3 == 2 && t.readV 15 == 1) = true ∧
    after { at' 0x200 [(3, 0x81), (4, 8)] with cfg := { defaultParams with shiftUsesVY := true } } 0x834E
      (fun t => t.readV 3 == 0x10 && t.readV 4 == 8 && t.readV 15 == 0) = true := by decide
/-- T-ALU-24. -/
theorem test_shl_flag_wins : after (at' 0x200 [(15, 0x81)]) 0x8F0E (fun t => t.readV 15 == 1) = true := by decide
/-- T-ALU-35, T-ALU-37: the random byte is whatever it is, so the test assumes it. -/
theorem test_rnd (s : State) (h : s.rand8 = 0xA7) :
    ∃ t, exec (.rnd 3 0x0F) s = .next t ∧ t.readV 3 = 0x07 := by
  refine ⟨_, rfl, ?_⟩
  simp only [h]
  simp [State.readV, State.writeV, State.advance, State.setPc]

/-! ### Index register and memory -/

/-- T-MEM-1. -/
theorem test_ldI : after (at' 0x200 []) 0xAFFF (fun t => t.i == 0xFFF) = true := by decide
/-- T-MEM-3, T-MEM-4. -/
theorem test_addI : after { at' 0x200 [(1, 1), (15, 9)] with i := 0x0FFF } 0xF11E
    (fun t => t.i == 0x1000 && t.readV 15 == 9) = true ∧
    after { at' 0x200 [(1, 1)] with i := 0xFFFF } 0xF11E (fun t => t.i == 0) = true := by decide
/-- T-MEM-5. -/
theorem test_ldF : after (at' 0x200 [(2, 0x1A)]) 0xF229 (fun t => t.i == 0x32) = true ∧
    after { at' 0x200 [(2, 0x1A)] with cfg := { defaultParams with fontBase := 0x50 } } 0xF229
      (fun t => t.i == 0x82) = true := by decide
/-- T-MEM-9, T-MEM-12. -/
theorem test_ldB : after { at' 0x200 [(7, 99)] with i := 0x300 } 0xF733 (fun t => t.bytesAt 0x300 3 == [0, 9, 9]) = true ∧
    after { at' 0x200 [(0, 123)] with i := 0xFFD } 0xF033 (fun t => t.bytesAt 0xFFD 3 == [1, 2, 3]) = true := by decide
/-- T-MEM-13. -/
theorem test_ldB_fault : faultsWith { at' 0x200 [] with i := 0xFFE } 0xF033 (.dataOutOfRange 0x200 0xF033 0xFFE) = true := by
  decide
/-- T-MEM-16, with both values of LDST_INCREMENTS_I. -/
theorem test_storeRegs : after { at' 0x200 [(0, 0xAB)] with i := 0xFFF } 0xF055
    (fun t => t.byteAt 0xFFF == 0xAB && t.i == 0xFFF) = true ∧
    after { at' 0x200 [(0, 0xAB)] with i := 0xFFF, cfg := { defaultParams with ldstIncrementsI := true } } 0xF055
      (fun t => t.byteAt 0xFFF == 0xAB && t.i == 0x1000) = true := by decide
/-- T-MEM-15. -/
theorem test_storeRegs_fault :
    faultsWith { at' 0x200 [] with i := 0xFF1 } 0xFF55 (.dataOutOfRange 0x200 0xFF55 0xFF1) = true := by decide
/-- T-MEM-17: the font's first glyph. -/
theorem test_loadRegs : after (at' 0x200 [(5, 0x77)]) 0xF465
    (fun t => t.v.toList.take 6 == [0xF0, 0x90, 0x90, 0x90, 0xF0, 0x77] && t.i == 0) = true := by decide
/-- T-MEM-18. -/
theorem test_loadRegs_fault :
    faultsWith { at' 0x200 [] with i := 0x1000 } 0xF065 (.dataOutOfRange 0x200 0xF065 0x1000) = true := by decide

/-! ### Display -/

/-- T-DRW-10. -/
theorem test_cls : after { at' 0x200 [(15, 1)] with display := Display.blank.flip 3 5 } 0x00E0
    (fun t => t.display.pixel 3 5 == false && t.readV 15 == 1) = true := by decide
/-- T-DRW-11: wraps in both directions. -/
theorem test_drw_wraps : after (withData (at' 0x200 [(1, 62), (2, 31)]) 0x20C [0xC0, 0x81]) 0xD122
    (fun t => t.display.pixel 31 62 && t.display.pixel 31 63 && t.display.pixel 0 62 && t.display.pixel 0 5 &&
      !t.display.pixel 0 63 && !t.display.pixel 31 0 && t.readV 15 == 0) = true := by decide
/-- T-DRW-9, its second draw, and T-DRW-7. -/
theorem test_drw_collides : after { withData (at' 0x200 []) 0x301 [0x3C] with
      display := ((Display.blank.flip 0 0).flip 0 1 |>.flip 0 2).flip 0 3 } 0xD001
    (fun t => t.display.pixel 0 0 && t.display.pixel 0 1 && !t.display.pixel 0 2 && !t.display.pixel 0 3 &&
      t.display.pixel 0 4 && t.display.pixel 0 5 && t.readV 15 == 1) = true ∧
    faultsWith { at' 0x200 [] with i := 0xFFF } 0xD002 (.dataOutOfRange 0x200 0xD002 0xFFF) = true := by decide
/-- T-DRW-5. -/
theorem test_drw_no_rows : after { at' 0x200 [(15, 5)] with i := 0x1234 } 0xD010
    (fun t => t.readV 15 == 0 && !t.display.pixel 0 0 && t.pc == 0x202) = true := by decide

/-! ### Keypad and timers -/

/-- A keypad with one key down. -/
def oneKey (k : KeyIdx) : Vector Bool 16 := (Vector.replicate 16 false).set k.val true

/-- T-KEY-1, T-KEY-2. -/
theorem test_skp : after { at' 0x220 [(4, 10)] with keys := oneKey 10 } 0xE49E (fun t => t.pc == 0x224) = true ∧
    after (at' 0x220 [(4, 10)]) 0xE49E (fun t => t.pc == 0x222) = true := by decide
/-- T-KEY-3, T-KEY-4. -/
theorem test_sknp : after { at' 0x220 [(4, 10)] with keys := oneKey 10 } 0xE4A1 (fun t => t.pc == 0x222) = true ∧
    after (at' 0x220 [(4, 10)]) 0xE4A1 (fun t => t.pc == 0x224) = true := by decide
/-- T-KEY-5. -/
theorem test_key_fault :
    faultsWith (at' 0x200 [(4, 16)]) 0xE49E (.keyIndexOutOfRange 0x200 0xE49E 0x10) = true ∧
    faultsWith (at' 0x200 [(4, 16)]) 0xE4A1 (.keyIndexOutOfRange 0x200 0xE4A1 0x10) = true := by decide
/-- T-KEY-6 (first CYCLE), T-KEY-7. -/
theorem test_ldVxK : after (at' 0x200 []) 0xF00A (fun t => t.pc == 0x200 && t.waiting && t.waitReg == 0) = true ∧
    after { at' 0x200 [] with keys := (oneKey 7).set 2 true } 0xF50A
      (fun t => t.readV 5 == 2 && t.pc == 0x202 && !t.waiting) = true := by decide
/-- T-KEY-6, last CYCLE. -/
theorem test_waiting_completes :
    (match step { at' 0x200 [] with waiting := true, waitReg := 0, keys := oneKey 3 } with
      | .next t => t.readV 0 == 3 && !t.waiting && t.pc == 0x202
      | .fault _ => false
      | .refused _ => false) = true := by decide
/-- T-TMR-1, the read. -/
theorem test_ldVxDt : after { at' 0x200 [] with dt := 3 } 0xF107 (fun t => t.readV 1 == 3 && t.dt == 3) = true := by decide
/-- T-TMR-4. -/
theorem test_ldDtVx : after { at' 0x200 [] with dt := 7 } 0xF015 (fun t => t.dt == 0) = true := by decide
/-- T-TMR-2. -/
theorem test_ldStVx : after (at' 0x200 [(0, 1)]) 0xF018 (fun t => t.st == 1 && soundActive t && !soundActive (tick t)) = true := by
  decide

/-! ### Host events -/

/-- T-TMR-3. -/
theorem test_tick : (tick { State.reset with st := 5 }).dt = 0 ∧ (tick { State.reset with st := 5 }).st = 4 := by decide
/-- T-HOST-9. -/
theorem test_load : (match applyEvent (.load [0x12, 0x00, 0xAB]) State.reset with
      | .next t => t.bytesAt 0x200 4 == [0x12, 0x00, 0xAB, 0x00] && t.pc == 0x200
      | .fault _ => false
      | .refused _ => false) = true := by decide
/-- T-HOST-3. -/
theorem test_load_too_large :
    applyEvent (.load (List.replicate 3585 0xAA)) State.reset = .fault (.loadTooLarge 3585) := by
  have h : (List.replicate 3585 (0xAA : Byte)).length = 3585 := List.length_replicate
  generalize List.replicate 3585 (0xAA : Byte) = bs at h
  simp [applyEvent, loadProgram, raise, h, State.reset]
/-- T-HOST-6. -/
theorem test_setKey : (setKey 15 true State.reset).keys = oneKey 15 ∧ (setKey 15 true State.reset).pc = 0x200 := by decide

/-! ## Witnesses: states, words and operands that meet the hypotheses of the statements, clause by clause -/

/-- A waiting core at the last address a word fits, its stack full. -/
def waitingCore : State :=
  { (at' 0xFFE []).storeBytes 0xFFE [0xF3, 0x0A] with
    waiting := true, waitReg := 3, sp := 16, stack := Vector.replicate 16 0x1000 }

theorem waitingCore_inv : CoreInv waitingCore :=
  ⟨by decide, by decide, by decide, fun _ => ⟨by decide, by decide⟩, fun _ => rfl⟩

/-- A core that does not wait, at the highest PC the invariant allows, with an event to come. -/
theorem highPc_inv : CoreInv { at' 0x10FE [] with pending := [.tick] } :=
  ⟨by decide, by decide, by decide, fun h => absurd h (by decide), fun h => absurd h (by decide)⟩

theorem witness_EveryStepKeepsTheInvariant :
    (CoreInv waitingCore ∧ ∃ t, step waitingCore = .next t) ∧
    CoreInv { at' 0x10FE [] with pending := [.tick] } ∧ ∃ t, step { at' 0x10FE [] with pending := [.tick] } = .next t :=
  ⟨⟨waitingCore_inv, _, rfl⟩, highPc_inv, _, rfl⟩

theorem witness_CanonicalMemoriesThatReadAlikeAreEqual :
    Memory.wf defaultParams [(0x000, 0x01), (0xFFF, 0x02)] = true ∧
    ∀ a, Memory.read defaultParams [(0x000, 0x01), (0xFFF, 0x02)] a =
      Memory.read defaultParams [(0x000, 0x01), (0xFFF, 0x02)] a := ⟨by decide, fun _ => rfl⟩

theorem witness_DecodeOfEncodeIsTheInstruction : (Instr.drw 15 0 15).WellFormed ∧ (Instr.jp 0xFFF).WellFormed := by decide

theorem witness_EncodeOfDecodeIsTheWord : decode 0xDF0F = some (.drw 15 0 15) := by decide

theorem witness_DecodeFollowsTheOpcodeMap :
    ∃ row ∈ opcodeTable, row.name = "8XY4" ∧ (0x8AB4 : Word) &&& row.mask = row.pattern :=
  ⟨⟨"8XY4", 0xF00F, 0x8004⟩, by decide, rfl, by decide⟩

/-- One word for each clause, at the edges of its range, and defined neighbours. -/
theorem witness_UnknownWordsAreExactlyTheListed :
    [0x0000, 0x00E1, 0x0FFF, 0x5001, 0x500F, 0x8008, 0x800D, 0x800F, 0x9001, 0xE09D, 0xE0A2, 0xF000, 0xF066].all
      (fun op : Word => (decode op).isNone) = true ∧
    [0x00E0, 0x1000, 0x5000, 0x8007, 0x800E, 0x9000, 0xE09E, 0xE0A1, 0xF007, 0xF065].all
      (fun op : Word => (decode op).isSome) = true := by decide

/-- A loaded core about to run a word. -/
def about (w : Nat) : State := (at' 0x200 []).withFetchWord 16 w

theorem witness_StepRunsTheDecodedInstruction :
    Runs (about 0x6A05) (.ldImm 10 5) ∧ Runs ((at' 0xFFE []).withFetchWord 16 0x1FFF) (.jp 0xFFF) :=
  ⟨⟨rfl, rfl, rfl, by decide, by decide⟩, ⟨rfl, rfl, rfl, by decide, by decide⟩⟩

theorem witness_FetchAndDecodeFaults :
    (nextEvent (at' 0xFFF []) = .cycle ∧ (at' 0xFFF []).loaded = true ∧ (at' 0xFFF []).waiting = false ∧
      0xFFE < (at' 0xFFF []).pc.toNat) ∧
    nextEvent (at' 0xFFE []) = .cycle ∧ (at' 0xFFE []).loaded = true ∧ (at' 0xFFE []).waiting = false ∧
      (at' 0xFFE []).pc.toNat ≤ 0xFFE ∧ decode (at' 0xFFE []).fetchWord = none := by decide

theorem witness_EventsOutOfBootOrderAreRefused :
    (nextEvent State.reset = .cycle ∧ State.reset.loaded = false) ∧
    (nextEvent { at' 0x200 [] with pending := [.load []] } = .load [] ∧ (at' 0x200 []).loaded = true) ∧
    nextEvent { State.reset with pending := [.load [0x12]] } = .load [0x12] ∧ [(0x12 : Byte)].length ≤ 3584 ∧
    nextEvent { State.reset with pending := [.tick] } = .tick ∧
    nextEvent { State.reset with pending := [.setKey 15 true] } = .setKey 15 true ∧
    nextEvent { State.reset with pending := [.getDisplay] } = .getDisplay ∧
    nextEvent { State.reset with pending := [.reset] } = .reset := by decide

theorem witness_FaultedEventChangesNothingAndRepeats :
    deliver .cycle (at' 0x200 []) = (at' 0x200 [], .fault 2 (.unknownOpcode 0x200 0x0000)) := rfl

theorem witness_SelfJumpIsAFixedPoint : ∃ s : State, Terminated s ∧ s.pc = 0xFFE ∧ s.loaded = true ∧ s.pending = [] :=
  ⟨(at' 0xFFE []).withFetchWord 16 0x1FFE, ⟨rfl, by decide, by decide⟩, rfl, rfl, rfl⟩

theorem witness_JumpsSetPcToTheirTarget : fieldT 0x1FFF = 0x1 ∧ fieldT 0xB000 = 0xB := by decide

theorem witness_CallPushesTheReturnAddress : fieldT 0x2FFF = 0x2 ∧
    State.reset.sp.val < 16 ∧ { State.reset with sp := 15 }.sp.val < 16 ∧ { State.reset with sp := 16 }.sp.val = 16 := by
  decide

theorem witness_ReturnPopsTheReturnAddress :
    0 < { State.reset with sp := 1 }.sp.val ∧ 0 < { State.reset with sp := 16 }.sp.val ∧ State.reset.sp.val = 0 := by
  decide

theorem witness_CallThenReturnComesBack : ∃ t u : State, exec (.call 0x210) { State.reset with sp := 15 } = .next t ∧
    u.sp = t.sp ∧ u.stack = t.stack ∧ u.readV 0 ≠ t.readV 0 := by
  refine ⟨_, State.writeV ?_ 0 7, rfl, ?_, ?_, ?_⟩
  · exact { State.reset with sp := 16, stack := (Vector.replicate 16 0).set 15 0x202 }
  all_goals decide

theorem witness_ImmediateSkipsCompareWithNN : fieldT 0x3FFF = 0x3 ∧ fieldT 0x4000 = 0x4 ∧
    (at' 0x200 [(15, 0xFF)]).readV 15 = 0xFF ∧ (at' 0x200 [(15, 0xFF)]).readV 15 ≠ 0xFE := by decide

theorem witness_RegisterSkipsCompareRegisters :
    (fieldT 0x5F00 = 0x5 ∧ fieldN 0x5F00 = 0x0) ∧ (fieldT 0x90F0 = 0x9 ∧ fieldN 0x90F0 = 0x0) ∧
    (at' 0x200 [(1, 7)]).readV 1 = (at' 0x200 [(1, 7)]).readV 1 ∧
    (at' 0x200 [(1, 7)]).readV 1 ≠ (at' 0x200 [(1, 7)]).readV 2 := by decide

theorem witness_LoadAndAddImmediateWriteNoFlag : fieldT 0x6FFF = 0x6 ∧ fieldT 0x7FFF = 0x7 := by decide

theorem witness_CopyAndLogicWriteNoFlag :
    fieldT 0x8FF0 = 0x8 ∧ fieldN 0x8FF0 = 0x0 ∧ fieldN 0x8FF1 = 0x1 ∧ fieldN 0x8FF2 = 0x2 ∧ fieldN 0x8FF3 = 0x3 := by
  decide

theorem witness_AddSetsTheCarry : fieldT 0x8FF4 = 0x8 ∧ fieldN 0x8FF4 = 0x4 ∧ (14 : RegIdx) ≠ VF := by decide

theorem witness_SubtractsSetNoBorrow :
    fieldT 0x8FF5 = 0x8 ∧ fieldN 0x8FF5 = 0x5 ∧ fieldN 0x8FF7 = 0x7 ∧ (14 : RegIdx) ≠ VF := by decide

theorem witness_ShiftsPutTheBitOutInVF : fieldT 0x8FFE = 0x8 ∧ fieldN 0x8FFE = 0xE ∧ fieldN 0x8FF6 = 0x6 ∧
    ((at' 0x200 []).cfg.shiftUsesVY = false ∧ (0x81 : Byte) = (at' 0x200 [(3, 0x81)]).readV 3) ∧
    { defaultParams with shiftUsesVY := true }.shiftUsesVY = true ∧ (14 : RegIdx) ≠ VF := by decide

theorem witness_RandomIsMaskedByNN : fieldT 0xCFFF = 0xC := by decide

theorem witness_VFIsAFlagOrUntouched :
    (∃ t, exec (.addReg 15 1) (at' 0x200 []) = .next t ∧ flagProducing (.addReg 15 1) = true) ∧
    ∃ t, exec (.addImm 14 1) (at' 0x200 []) = .next t ∧ flagProducing (.addImm 14 1) = false ∧
      VF ∉ destinations (.addImm 14 1) := ⟨⟨_, rfl, rfl⟩, _, rfl, rfl, by decide⟩

theorem witness_IndexInstructionsSetIOnly : fieldT 0xAFFF = 0xA ∧ fieldT 0xFF1E = 0xF ∧ fieldNN 0xFF1E = 0x1E ∧
    fieldNN 0xFF29 = 0x29 := by decide

theorem witness_BcdStoresThreeDigits : fieldT 0xFF33 = 0xF ∧ fieldNN 0xFF33 = 0x33 ∧
    (Memory.wf State.reset.cfg State.reset.mem = true ∧ { State.reset with i := 0xFFD }.i.toNat + 2 ≤ 0xFFF) ∧
    0xFFF < { State.reset with i := 0xFFE }.i.toNat + 2 := by decide

theorem witness_StoreRegistersAscendFromIndex : fieldT 0xFF55 = 0xF ∧ fieldNN 0xFF55 = 0x55 ∧
    (Memory.wf State.reset.cfg State.reset.mem = true ∧
      { State.reset with i := 0xFF0 }.i.toNat + (15 : RegIdx).val ≤ 0xFFF) ∧
    0xFFF < { State.reset with i := 0xFF1 }.i.toNat + (15 : RegIdx).val := by decide

theorem witness_LoadRegistersAscendFromIndex : fieldT 0xFF65 = 0xF ∧ fieldNN 0xFF65 = 0x65 ∧
    { State.reset with i := 0xFF0 }.i.toNat + (15 : RegIdx).val ≤ 0xFFF ∧
    0xFFF < { State.reset with i := 0xFF1 }.i.toNat + (15 : RegIdx).val := by decide

/-- A core with registers to store at the end of memory. -/
def storing : State := { at' 0x200 [(0, 0x11), (1, 0x22)] with i := 0xFFE }

theorem witness_StoreThenLoadRestoresTheRegisters : ∃ t u : State, Memory.wf storing.cfg storing.mem = true ∧
    exec (.storeRegs 1) storing = .next t ∧ u.mem = t.mem ∧ u.cfg = t.cfg ∧ u.i = storing.i ∧ u.readV 0 ≠ storing.readV 0 :=
  ⟨_, (storing.storeBytes 0xFFE [0x11, 0x22]).writeV 0 9, by decide, rfl, by decide, by decide, by decide, by decide⟩

theorem witness_StoredBytesAreFetchedNext : Memory.wf storing.cfg storing.mem = true ∧
    (∃ t, exec (.storeRegs 1) storing = .next t) ∧ (1 : RegIdx).val = (0 : RegIdx).val + 1 ∧ (1 : RegIdx) ≤ 1 ∧
    (0xFFE : Word).toNat = storing.i.toNat + (0 : RegIdx).val ∧
    ∃ t, exec (.ldB 1) { storing with i := 0xFFD } = .next t := by
  refine ⟨by decide, ⟨_, rfl⟩, by decide, by decide, by decide, _, rfl⟩

/-- A lit pixel at the origin and a one-row sprite FF there. -/
def drawing : State := { withData (at' 0x200 []) 0xFFF [0xFF] with display := Display.blank.flip 0 0 }

/-- Fifteen rows end at 0xFFF from 0xFF1 and not from 0xFF2; no rows fit anywhere. In `drawing` the pixels (0, 0) and
(0, 7) are covered, the first of them lit, and (0, 8) is not; at (0, 1) nothing collides. -/
theorem witness_DrawInvertsExactlyTheCoveredPixels : (fieldT 0xDFFF = 0xD ∧ 15 < 16 ∧ 15 ≠ 0) ∧
    { State.reset with i := 0xFF1 }.i.toNat + 15 - 1 ≤ 0xFFF ∧ 0xFFF < { State.reset with i := 0xFF2 }.i.toNat + 15 - 1 ∧
    (drawing.i.toNat + 1 - 1 ≤ 0xFFF ∧ SpriteCovers drawing 0 0 1 0 0 ∧ SpriteCovers drawing 0 0 1 0 7 ∧
      ¬ SpriteCovers drawing 0 0 1 0 8 ∧ drawing.display.pixel 0 0 = true) ∧
    ¬ ∃ py px, SpriteCovers { drawing with display := Display.blank } 0 0 1 py px ∧
      { drawing with display := Display.blank }.display.pixel py px = true := by
  refine ⟨by decide, by decide, by decide, ⟨by decide, ⟨0, 0, by decide⟩, ⟨0, 7, by decide⟩, ?_, by decide⟩, ?_⟩
  · rintro ⟨r, j, hr, hj, -, hx, -⟩
    have : (drawing.readV 0).toNat = 0 := by decide
    rw [this] at hx
    simp at hx; omega
  · rintro ⟨py, px, -, h⟩
    rw [Display.pixel_blank] at h; cases h

theorem witness_DrawingTwiceRestoresTheDisplay :
    (∃ t, exec (.drw 0 1 1) drawing = .next t ∧ (0 : RegIdx) ≠ VF ∧ (1 : RegIdx) ≠ VF) ∧
    ∃ t, exec (.drw 15 0 1) { drawing with display := Display.blank } = .next t ∧
      t.readV VF = { drawing with display := Display.blank }.readV VF := ⟨⟨_, rfl, by decide, by decide⟩, _, rfl, by decide⟩

theorem witness_KeySkipsTestOneKey : (fieldT 0xEF9E = 0xE ∧ fieldNN 0xEF9E = 0x9E ∧ fieldNN 0xEFA1 = 0xA1) ∧
    ((at' 0x200 [(4, 15)]).readV 4).toNat = (15 : KeyIdx).val ∧
    { at' 0x200 [(4, 15)] with keys := oneKey 15 }.keys[15] = true ∧ (at' 0x200 [(4, 15)]).keys[15] = false ∧
    15 < ((at' 0x200 [(4, 16)]).readV 4).toNat := by decide

/-- The highest key alone, no key, and both again in a waiting core. -/
theorem witness_KeyWaitStoresTheLowestKey : (fieldT 0xFF0A = 0xF ∧ fieldNN 0xFF0A = 0x0A) ∧
    LowestPressed { at' 0x200 [] with keys := oneKey 15 } 15 ∧ NoKeyPressed (at' 0x200 []) ∧
    (waitingCore.loaded = true ∧ waitingCore.waiting = true ∧ NoKeyPressed waitingCore) ∧
    LowestPressed { waitingCore with keys := oneKey 0 } 0 := by
  refine ⟨by decide, ⟨by decide, by decide⟩, by unfold NoKeyPressed; decide, ⟨rfl, rfl, by unfold NoKeyPressed; decide⟩,
    by decide, by decide⟩

theorem witness_WaitingIsReexecutingTheFX0A : CoreInv waitingCore ∧ waitingCore.waiting = true := ⟨waitingCore_inv, rfl⟩

theorem witness_TimerMovesCopyOneByte : fieldT 0xFF07 = 0xF ∧ fieldNN 0xFF07 = 0x07 ∧ fieldNN 0xFF15 = 0x15 ∧
    fieldNN 0xFF18 = 0x18 := by decide

theorem witness_LoadCopiesTheImage : Memory.wf State.reset.cfg State.reset.mem = true ∧ State.reset.loaded = false ∧
    (List.replicate 3584 (0 : Byte)).length ≤ 3584 ∧ 3584 < (List.replicate 3585 (0 : Byte)).length :=
  ⟨rfl, rfl, by rw [List.length_replicate], by rw [List.length_replicate]; decide⟩

theorem witness_SetKeySetsOneFlag : (0 : KeyIdx) ≠ 15 := by decide

/-- Each of the three ways in which the sound output changes. -/
theorem witness_SoundChangesOnlyWhenItMay :
    (∃ t, step ((at' 0x200 [(0, 1)]).withFetchWord 16 0xF018) = .next t ∧ soundActive t = true) ∧
    (∃ t, step { at' 0x200 [] with st := 1, pending := [.tick] } = .next t ∧ soundActive t = false) ∧
    ∃ t, step { at' 0x200 [] with st := 2, pending := [.reset] } = .next t ∧ soundActive t = false :=
  ⟨⟨_, rfl, by decide⟩, ⟨_, rfl, by decide⟩, _, rfl, by decide⟩

theorem witness_KeysChangeOnlyBySetKeyOrReset :
    (∃ t, step { State.reset with pending := [.setKey 15 true] } = .next t ∧ t.keys ≠ State.reset.keys) ∧
    ∃ t, step { State.reset with keys := oneKey 3, pending := [.reset] } = .next t ∧ t.keys ≠ oneKey 3 :=
  ⟨⟨_, rfl, by decide⟩, _, rfl, by decide⟩

theorem witness_DisplayChangesOnlyByItsWriters :
    (∃ t, step { about 0x00E0 with display := drawing.display } = .next t ∧ t.display ≠ drawing.display) ∧
    ∃ t, step ((withData (at' 0x200 []) 0x300 [0x80]).withFetchWord 16 0xD001) = .next t ∧ t.display ≠ Display.blank :=
  ⟨⟨_, rfl, by decide⟩, _, rfl, by decide⟩

theorem witness_StackChangesOnlyByCallReturnReset :
    (∃ t, step (about 0x2300) = .next t ∧ t.sp ≠ (about 0x2300).sp ∧ t.stack ≠ (about 0x2300).stack) ∧
    ∃ t, step { about 0x00EE with sp := 16 } = .next t ∧ t.sp ≠ 16 := ⟨⟨_, rfl, by decide, by decide⟩, _, rfl, by decide⟩

theorem witness_TimersChangeOnlyByTheirWriters :
    (∃ t, step ((at' 0x200 [(0, 9)]).withFetchWord 16 0xF015) = .next t ∧ t.dt ≠ 0) ∧
    (∃ t, step ((at' 0x200 [(0, 9)]).withFetchWord 16 0xF018) = .next t ∧ t.st ≠ 0) ∧
    ∃ t, step { State.reset with dt := 1, pending := [.tick] } = .next t ∧ t.dt ≠ 1 :=
  ⟨⟨_, rfl, by decide⟩, ⟨_, rfl, by decide⟩, _, rfl, by decide⟩

theorem witness_IndexChangesOnlyByItsWriters :
    (∃ t, step (about 0xA300) = .next t ∧ t.i ≠ 0) ∧
    ∃ t, step { about 0xFF55 with i := 0xFF0, cfg := { defaultParams with ldstIncrementsI := true } } = .next t ∧
      t.i ≠ 0xFF0 := ⟨⟨_, rfl, by decide⟩, _, rfl, by decide⟩

theorem witness_MemoryChangesOnlyByItsWriters :
    (∃ t, step ((at' 0x200 [(0, 0xFF)]).setI 0xFFD |>.withFetchWord 16 0xF033) = .next t ∧ t.byteAt 0xFFF ≠ 0) ∧
    (∃ t, step (storing.withFetchWord 16 0xF155) = .next t ∧ t.byteAt 0xFFF ≠ 0) ∧
    ∃ t, step { State.reset with pending := [.load [0x12]] } = .next t ∧ t.byteAt 0x200 ≠ 0 :=
  ⟨⟨_, rfl, by decide⟩, ⟨_, rfl, by decide⟩, _, rfl, by decide⟩

theorem witness_PcIsSetInOneOfFourWays :
    (∃ t, exec .cls State.reset = .next t ∧ t.pc = 0x202) ∧
    (∃ t, exec (.seImm 0 0) State.reset = .next t ∧ t.pc = 0x204) ∧
    (∃ t, exec (.jp 0xFFF) State.reset = .next t ∧ t.pc = 0xFFF) ∧
    ∃ t, exec (.ldVxK 0) State.reset = .next t ∧ t.pc = 0x200 :=
  ⟨⟨_, rfl, by decide⟩, ⟨_, rfl, by decide⟩, ⟨_, rfl, by decide⟩, _, rfl, by decide⟩

/-- One fault of each kind, each in a state whose next event is a CYCLE. -/
theorem witness_ReportedWordIsTheFetchedWord :
    step (about 0x0FFF) = .fault (.unknownOpcode 0x200 0x0FFF) ∧
    step { about 0x2200 with sp := 16 } = .fault (.stackOverflow 0x200 0x2200) ∧
    step (about 0x00EE) = .fault (.stackUnderflow 0x200 0x00EE) ∧
    step { about 0xF033 with i := 0xFFE } = .fault (.dataOutOfRange 0x200 0xF033 0xFFE) ∧
    step ((at' 0x200 [(0, 16)]).withFetchWord 16 0xE09E) = .fault (.keyIndexOutOfRange 0x200 0xE09E 16) :=
  ⟨rfl, rfl, rfl, rfl, rfl⟩

theorem witness_OnlyRandomConsumesARandomByte :
    ((∃ t, step (about 0xC0FF) = .next t) ∧ Runs (about 0xC0FF) (.rnd 0 0xFF)) ∧
    (∃ t, step (about 0x00E0) = .next t) ∧ ¬ ∃ x nn, Runs (about 0x00E0) (.rnd x nn) := by
  refine ⟨⟨⟨_, rfl⟩, rfl, rfl, rfl, by decide, by decide⟩, ⟨_, rfl⟩, ?_⟩
  rintro ⟨x, nn, h⟩
  have h1 := h.decoded
  rw [show decode (about 0x00E0).fetchWord = some .cls by decide] at h1
  cases h1

theorem witness_NoInstructionReadsTheSoundTimer :
    (∀ x, Instr.cls ≠ .ldStVx x) ∧ ∃ x, Instr.ldStVx 15 = .ldStVx x := ⟨by decide, 15, rfl⟩

theorem witness_StackDisplayKeysAreReadOnlyByTheirs :
    (Instr.cls ≠ .ret ∧ ∀ nnn, Instr.cls ≠ .call nnn) ∧ (Instr.ret ≠ .cls ∧ ∀ x y n, Instr.ret ≠ .drw x y n) ∧
    (∀ x, Instr.cls ≠ .skp x) ∧ (∀ x, Instr.cls ≠ .sknp x) ∧ ∀ x, Instr.cls ≠ .ldVxK x := by
  refine ⟨⟨by decide, nofun⟩, ⟨by decide, nofun⟩, nofun, nofun, nofun⟩

end Sys2Proof.Tests
end

section
/-! The RESET event (10_state.md R24; 48_host_commands.md R106): what memory reads as after it, and that it leaves every
element at its reset value. -/

namespace Sys2Proof.Machine

open Sys2Proof.Config Sys2Proof.Safety

/-! ### The reset contents of memory -/

/-- Row `r` of glyph `d` stands at FONT_BASE + 5 * d + r (R19): the font lies below the program area, and 5 * d + r divides
by 5 into `d` and `r`. -/
theorem resetByte_glyph (p : Params) (d : Fin 16) (r : Fin 5) :
    resetByte p (p.fontBase.val + 5 * d.val + r.val) = p.fontData[d.val][r.val] := by
  have hlow : ¬ 0x200 ≤ p.fontBase.val + 5 * d.val + r.val := by omega
  have hfont : p.fontBase.val ≤ p.fontBase.val + 5 * d.val + r.val ∧
      p.fontBase.val + 5 * d.val + r.val < p.fontBase.val + 80 := by omega
  have hoff : p.fontBase.val + 5 * d.val + r.val - p.fontBase.val = 5 * d.val + r.val := by omega
  have hdiv : (5 * d.val + r.val) / 5 = d.val := by omega
  have hmod : (5 * d.val + r.val) % 5 = r.val := by omega
  simp only [resetByte, hlow, hfont, hoff, hdiv, hmod, if_false, dif_pos, and_self]

/-- Outside the font, memory is 0x00 after RESET (R18). -/
theorem resetByte_of_outside_font (p : Params) {a : Nat} (h : a < p.fontBase.val ∨ p.fontBase.val + 80 ≤ a) :
    resetByte p a = 0x00 := by
  have hfont : ¬ (p.fontBase.val ≤ a ∧ a < p.fontBase.val + 80) := by omega
  simp only [resetByte, hfont, dif_neg, not_false_eq_true, ite_self]

/-! ### RESET -/

@[simp] theorem applyEvent_reset (s : State) : applyEvent .reset s = .next (resetCore s) := rfl

@[simp] theorem resetCore_cfg (s : State) : (resetCore s).cfg = s.cfg := rfl

@[simp] theorem resetCore_readV (s : State) (r : RegIdx) : (resetCore s).readV r = 0 := Vector.getElem_replicate ..

@[simp] theorem resetCore_byteAt (s : State) (a : Nat) : (resetCore s).byteAt a = resetByte s.cfg a := rfl

/-- RESET is idempotent (R24): all it keeps (parameters, random source, coming events) a second one keeps too. -/
@[simp] theorem resetCore_resetCore (s : State) : resetCore (resetCore s) = resetCore s := rfl

/-- R24, for every parameter. -/
theorem atReset_resetCore (s : State) : AtReset (resetCore s) where
  regs := resetCore_readV s
  index := rfl
  pc := rfl
  slots _ := Vector.getElem_replicate ..
  sp := rfl
  dt := rfl
  st := rfl
  display := Display.pixel_blank
  keys _ := Vector.getElem_replicate ..
  waiting := rfl
  waitReg := rfl
  font d r := (resetCore_byteAt s _).trans (resetByte_glyph s.cfg d r)
  zeros a h := (resetCore_byteAt s a).trans (resetByte_of_outside_font s.cfg h)

/-- Settles O2: the next state is `resetCore s`. -/
theorem resetEventLeavesTheResetValues : Obligations.ResetEventLeavesTheResetValues := by
  unfold Obligations.ResetEventLeavesTheResetValues
  intro s
  refine ⟨resetCore s, applyEvent_reset s, atReset_resetCore s, resetCore_cfg s, ?_⟩
  rw [applyEvent_reset, resetCore_resetCore]

end Sys2Proof.Machine
end

section
/-! Control transfer (40_control_flow.md R60 to R68): which words are its instructions, the frame of a change of PC, both
sides of 2NNN and of 00EE, and what a comparing skip makes of PC. -/

namespace Sys2Proof.Machine

open Sys2Proof.Safety

/-! ### Decoding (R50) -/

theorem decodesFA_jp : DecodesFA 0x1 .jp := fun op h => by simp [decode, h]

theorem decodesFA_call : DecodesFA 0x2 .call := fun op h => by simp [decode, h]

theorem decodesFA_jpV0 : DecodesFA 0xB .jpV0 := fun op h => by simp [decode, h]

theorem decodesFXB_seImm : DecodesFXB 0x3 .seImm := fun op h => by simp [decode, h]

theorem decodesFXB_sneImm : DecodesFXB 0x4 .sneImm := fun op h => by simp [decode, h]

theorem decodesFXY_seReg : DecodesFXY 0x5 0x0 .seReg := fun op h hn => by simp [decode, h, hn]

theorem decodesFXY_sneReg : DecodesFXY 0x9 0x0 .sneReg := fun op h hn => by simp [decode, h, hn]

/-! ### Frames -/

/-- Nothing written fits every frame. -/
theorem sameExcept_refl (w : Writes) (s : State) : SameExcept w s s where
  regs _ _ := rfl
  index _ := rfl
  bytes _ _ := rfl
  slots _ _ := rfl
  sp _ := rfl
  dt _ := rfl
  st _ := rfl
  display _ := rfl
  keys _ := rfl
  wait _ := ⟨rfl, rfl⟩
  draws _ := rfl
  cfg := rfl
  pending := rfl
  loaded _ := rfl

/-- A frame does not speak of PC, so setting PC last keeps it. -/
theorem sameExcept_setPc {w : Writes} {s t : State} (h : SameExcept w s t) (a : Word) : SameExcept w s (t.setPc a) :=
  { h with }

theorem sameExcept_skipIf {w : Writes} {s t : State} (h : SameExcept w s t) (c : Bool) :
    SameExcept w s (t.skipIf c) := by
  cases c
  case true => exact sameExcept_setPc h _
  case false => exact sameExcept_setPc h _

/-- A pop writes SP alone. -/
theorem sameExcept_sp (s : State) (n : Fin 17) : SameExcept { sp := true } s { s with sp := n } :=
  { sameExcept_refl { sp := true } s with sp := nofun }

/-- A push writes one slot and SP. -/
theorem sameExcept_slot_sp (s : State) (j : Fin 16) (w : Word) (n : Fin 17) :
    SameExcept { slots := [j], sp := true } s { s with stack := s.stack.set j.val w j.isLt, sp := n } :=
  { sameExcept_refl { slots := [j], sp := true } s with
    slots k hk := by
      have hne : j.val ≠ k.val := fun e => hk (List.mem_singleton.2 (Fin.ext e.symm))
      exact Vector.getElem_set_ne j.isLt k.isLt hne
    sp := nofun }

/-! ### Jump targets (R62, R63, R68) -/

theorem toNat_addrOf (nnn : Addr12) : (addrOf nnn).toNat = nnn.toNat :=
  BitVec.toNat_setWidth_of_le (by decide)

/-- NNN + V[0] is at most 0xFFF + 0xFF, so 16 bits hold it unreduced. -/
theorem toNat_jumpTarget (s : State) (nnn : Addr12) :
    (jumpTarget s nnn).toNat = nnn.toNat + (s.readV 0).toNat := by
  have hnnn := nnn.isLt
  have hv := (s.readV 0).isLt
  rw [jumpTarget, BitVec.toNat_add, toNat_addrOf, BitVec.toNat_setWidth_of_le (by decide)]
  omega

/-- Settles O16: both jumps set PC and nothing else. -/
theorem jumpsSetPcToTheirTarget : Obligations.JumpsSetPcToTheirTarget := by
  unfold Obligations.JumpsSetPcToTheirTarget
  refine ⟨decodesFA_jp, decodesFA_jpV0, fun s nnn => ⟨?_, ?_⟩⟩
  · exact ⟨_, rfl, toNat_addrOf nnn, sameExcept_setPc (sameExcept_refl _ s) _⟩
  · exact ⟨_, rfl, toNat_jumpTarget s nnn, sameExcept_setPc (sameExcept_refl _ s) _⟩

/-! ### Call and return (R61, R63) -/

theorem exec_call_of_lt (s : State) (nnn : Addr12) (h : s.sp.val < 16) :
    exec (.call nnn) s = .next (State.setPc
      { s with stack := s.stack.set s.sp.val (s.pc + 2) h, sp := ⟨s.sp.val + 1, by omega⟩ } (addrOf nnn)) := by
  simp only [exec, execCall, State.push_of_lt s _ h]

theorem exec_call_of_full (s : State) (nnn : Addr12) (h : s.sp.val = 16) :
    exec (.call nnn) s = .fault (.stackOverflow s.pc (encode (.call nnn))) := by
  simp only [exec, execCall, State.push_of_full s _ h, raise]

theorem exec_ret_of_pos (s : State) (h : 0 < s.sp.val) :
    exec .ret s = .next (State.setPc { s with sp := ⟨s.sp.val - 1, by omega⟩ }
      (s.stack[s.sp.val - 1]'(by omega))) := by
  simp only [exec, execRet, State.pop_of_pos s h]

theorem exec_ret_of_empty (s : State) (h : s.sp.val = 0) :
    exec .ret s = .fault (.stackUnderflow s.pc (encode .ret)) := by
  simp only [exec, execRet, State.pop_of_empty s h, raise]

/-- Settles O17: a push writes the slot at SP, and one at SP = 16 finds none. -/
theorem callPushesTheReturnAddress : Obligations.CallPushesTheReturnAddress := by
  unfold Obligations.CallPushesTheReturnAddress
  refine ⟨decodesFA_call, fun s nnn h => ?_, exec_call_of_full⟩
  exact ⟨_, exec_call_of_lt s nnn h, Vector.getElem_set_self h, rfl, toNat_addrOf nnn,
    sameExcept_setPc (sameExcept_slot_sp s ⟨s.sp.val, h⟩ _ _) _⟩

/-- Settles O18: a pop writes SP alone, and one at SP = 0 finds no entry. -/
theorem returnPopsTheReturnAddress : Obligations.ReturnPopsTheReturnAddress := by
  unfold Obligations.ReturnPopsTheReturnAddress
  refine ⟨rfl, fun s h => ?_, exec_ret_of_empty⟩
  exact ⟨_, exec_ret_of_pos s h, rfl, rfl, sameExcept_setPc (sameExcept_sp s _) _⟩

/-! ### Comparing skips (R64 to R67) -/

/-- Skip if equal: 3XNN, 5XY0. -/
theorem skipIf_beq (s : State) (a b : Byte) :
    (a = b → (s.skipIf (a == b)).pc = s.pc + 4) ∧ (a ≠ b → (s.skipIf (a == b)).pc = s.pc + 2) ∧
    SameExcept {} s (s.skipIf (a == b)) := by
  refine ⟨fun h => ?_, fun h => ?_, sameExcept_skipIf (sameExcept_refl _ s) _⟩
  · rw [beq_iff_eq.2 h]; rfl
  · rw [beq_eq_false_iff_ne.2 h]; rfl

/-- Skip if not equal: 4XNN, 9XY0. -/
theorem skipIf_bne (s : State) (a b : Byte) :
    (a ≠ b → (s.skipIf (a != b)).pc = s.pc + 4) ∧ (a = b → (s.skipIf (a != b)).pc = s.pc + 2) ∧
    SameExcept {} s (s.skipIf (a != b)) := by
  refine ⟨fun h => ?_, fun h => ?_, sameExcept_skipIf (sameExcept_refl _ s) _⟩
  · rw [bne_iff_ne.2 h]; rfl
  · rw [bne_eq_false_iff_eq.2 h]; rfl

/-- Settles O20: both compare V[X] with NN and then move PC alone. -/
theorem immediateSkipsCompareWithNN : Obligations.ImmediateSkipsCompareWithNN := by
  unfold Obligations.ImmediateSkipsCompareWithNN
  refine ⟨decodesFXB_seImm, decodesFXB_sneImm, fun s x nn => ⟨?_, ?_⟩⟩
  · exact ⟨_, rfl, skipIf_beq s (s.readV x) nn⟩
  · exact ⟨_, rfl, skipIf_bne s (s.readV x) nn⟩

/-- Settles O21: both compare two registers and then move PC alone. -/
theorem registerSkipsCompareRegisters : Obligations.RegisterSkipsCompareRegisters := by
  unfold Obligations.RegisterSkipsCompareRegisters
  refine ⟨decodesFXY_seReg, decodesFXY_sneReg, fun s x y => ⟨?_, ?_⟩⟩
  · exact ⟨_, rfl, skipIf_beq s (s.readV x) (s.readV y)⟩
  · exact ⟨_, rfl, skipIf_bne s (s.readV x) (s.readV y)⟩

end Sys2Proof.Machine
end

section
/-! Register load and ALU (41_alu.md R70 to R82): which words are its instructions, what writing a result, with or without
a flag, leaves in the registers and keeps elsewhere, and each result and flag as a number. -/

namespace Sys2Proof.Machine

open Sys2Proof.Safety

/-! ### Decoding (R50, R52) -/

theorem decodesFXB_ldImm : DecodesFXB 0x6 .ldImm := fun op h => by simp [decode, h]

theorem decodesFXB_addImm : DecodesFXB 0x7 .addImm := fun op h => by simp [decode, h]

/-- Family 8 is decoded by N alone. -/
theorem decodesFXY_alu {n : Nibble} {mk : RegIdx → RegIdx → Instr}
    (h : ∀ op, fieldN op = n → decodeAlu op = some (mk (fieldX op) (fieldY op))) : DecodesFXY 0x8 n mk :=
  fun op ht hn => by simp [decode, ht, h op hn]

theorem decodesFXY_ldReg : DecodesFXY 0x8 0x0 .ldReg := decodesFXY_alu fun op h => by simp [decodeAlu, h]

theorem decodesFXY_orReg : DecodesFXY 0x8 0x1 .orReg := decodesFXY_alu fun op h => by simp [decodeAlu, h]

theorem decodesFXY_andReg : DecodesFXY 0x8 0x2 .andReg := decodesFXY_alu fun op h => by simp [decodeAlu, h]

theorem decodesFXY_xorReg : DecodesFXY 0x8 0x3 .xorReg := decodesFXY_alu fun op h => by simp [decodeAlu, h]

theorem decodesFXY_addReg : DecodesFXY 0x8 0x4 .addReg := decodesFXY_alu fun op h => by simp [decodeAlu, h]

theorem decodesFXY_subReg : DecodesFXY 0x8 0x5 .subReg := decodesFXY_alu fun op h => by simp [decodeAlu, h]

theorem decodesFXY_shr : DecodesFXY 0x8 0x6 .shr := decodesFXY_alu fun op h => by simp [decodeAlu, h]

theorem decodesFXY_subnReg : DecodesFXY 0x8 0x7 .subnReg := decodesFXY_alu fun op h => by simp [decodeAlu, h]

theorem decodesFXY_shl : DecodesFXY 0x8 0xE .shl := decodesFXY_alu fun op h => by simp [decodeAlu, h]

/-! ### Writing a result (R70, R71) -/

/-- Writing a register that the frame lists keeps the frame. -/
theorem sameExcept_writeV {w : Writes} {s t : State} (h : SameExcept w s t) {x : RegIdx} (hx : x ∈ w.regs) (b : Byte) :
    SameExcept w s (t.writeV x b) :=
  { h with
    regs r hr := by
      have hne : r ≠ x := (ne_of_mem_of_not_mem hx hr).symm
      rw [State.readV_writeV_of_ne t b hne, h.regs r hr] }

/-- A result without a flag: V[x] holds it, and no other register is written (R71). -/
theorem finish_spec (s : State) (x : RegIdx) (b : Byte) :
    ∃ t, finish s x b = .next t ∧ t.readV x = b ∧ t.pc = s.pc + 2 ∧ SameExcept { regs := [x] } s t := by
  refine ⟨(s.writeV x b).advance, rfl, ?_, rfl, ?_⟩
  · rw [State.advance_readV, State.readV_writeV_self]
  · exact sameExcept_setPc (sameExcept_writeV (sameExcept_refl _ s) List.mem_cons_self b) _

/-- A result and a flag, as numbers: VF is written last, so it holds the flag in every case, and V[x] the result where x
is another register (R13, R70). -/
theorem finishFlag_spec (s : State) (x : RegIdx) {r f : Byte} {m n : Nat} (hr : r.toNat = m) (hf : f.toNat = n) :
    ∃ t, finishFlag s x r f = .next t ∧ (x ≠ VF → (t.readV x).toNat = m) ∧ (t.readV VF).toNat = n ∧
      t.pc = s.pc + 2 ∧ SameExcept { regs := [x, VF] } s t := by
  have hframe : SameExcept { regs := [x, VF] } s (s.writeResultFlag x r f) :=
    sameExcept_writeV (sameExcept_writeV (sameExcept_refl _ s) (by simp) r) (by simp) f
  refine ⟨(s.writeResultFlag x r f).advance, rfl, fun hx => ?_, ?_, rfl, sameExcept_setPc hframe _⟩
  · rw [State.advance_readV, State.readV_writeResultFlag, if_neg hx, if_pos rfl, hr]
  · rw [State.advance_readV, State.readV_writeResultFlag, if_pos rfl, hf]

/-! ### Flags as numbers (R13) -/

theorem toNat_carryFlag (a b : Byte) : (carryFlag a b).toNat = if a.toNat + b.toNat > 255 then 1 else 0 := by
  simp only [carryFlag, toNat_flagByte, decide_eq_true_eq]

theorem toNat_noBorrowFlag (a b : Byte) : (noBorrowFlag a b).toNat = if a.toNat ≥ b.toNat then 1 else 0 := by
  simp only [noBorrowFlag, toNat_flagByte, decide_eq_true_eq]

/-- Bit 0 is the remainder by 2. -/
theorem toNat_lowBitFlag (b : Byte) : (lowBitFlag b).toNat = b.toNat % 2 := by
  have hbit : b.getLsbD 0 = decide (b.toNat % 2 = 1) := by rw [BitVec.getLsbD, Nat.testBit_zero]
  rw [lowBitFlag, toNat_flagByte, hbit]
  simp only [decide_eq_true_eq]
  split <;> omega

/-- Bit 7 is the quotient by 128. -/
theorem toNat_highBitFlag (b : Byte) : (highBitFlag b).toNat = b.toNat / 128 := by
  have hlt := b.isLt
  have hbit : b.getLsbD 7 = decide (b.toNat / 128 % 2 = 1) := by rw [BitVec.getLsbD, Nat.testBit_eq_decide_div_mod_eq]
  rw [highBitFlag, toNat_flagByte, hbit]
  simp only [decide_eq_true_eq]
  split <;> omega

/-! ### Results as numbers -/

theorem toNat_byte_sub (a b : Byte) : (a - b).toNat = (a.toNat + 256 - b.toNat) % 256 := by
  have hb := b.isLt
  rw [BitVec.toNat_sub]
  omega

theorem toNat_byte_ushiftRight_one (b : Byte) : (b >>> 1).toNat = b.toNat / 2 := by
  rw [BitVec.toNat_ushiftRight, Nat.shiftRight_one]

theorem toNat_byte_shiftLeft_one (b : Byte) : (b <<< 1).toNat = b.toNat * 2 % 256 := by
  rw [BitVec.toNat_shiftLeft, Nat.shiftLeft_eq]

/-- The shifted byte is V[y] or V[x] as SHIFT_USES_VY says (R80, R82). -/
theorem shiftSource_eq {s : State} {x y : RegIdx} {src : Byte} (hy : s.cfg.shiftUsesVY = true → src = s.readV y)
    (hx : s.cfg.shiftUsesVY = false → src = s.readV x) : shiftSource s x y = src := by
  cases huse : s.cfg.shiftUsesVY
  case true => rw [shiftSource, if_pos huse, hy huse]
  case false => rw [shiftSource, if_neg (ne_true_of_eq_false huse), hx huse]

/-! ### Load and add immediate, copy and logic -/

/-- Settles O22: both finish without a flag. -/
theorem loadAndAddImmediateWriteNoFlag : Obligations.LoadAndAddImmediateWriteNoFlag := by
  unfold Obligations.LoadAndAddImmediateWriteNoFlag
  refine ⟨decodesFXB_ldImm, decodesFXB_addImm, fun s x nn => ⟨finish_spec s x nn, ?_⟩⟩
  obtain ⟨t, ht, hv, hrest⟩ := finish_spec s x (s.readV x + nn)
  exact ⟨t, ht, by rw [hv, BitVec.toNat_add], hrest⟩

/-- Settles O23: all four finish without a flag, and the logic operations act bit by bit. -/
theorem copyAndLogicWriteNoFlag : Obligations.CopyAndLogicWriteNoFlag := by
  unfold Obligations.CopyAndLogicWriteNoFlag
  refine ⟨decodesFXY_ldReg, decodesFXY_orReg, decodesFXY_andReg, decodesFXY_xorReg, fun s x y => ⟨?_, ?_, ?_, ?_⟩⟩
  · exact finish_spec s x (s.readV y)
  · obtain ⟨t, ht, hv, hrest⟩ := finish_spec s x (s.readV x ||| s.readV y)
    exact ⟨t, ht, fun b _ => by rw [hv, BitVec.getLsbD_or], hrest⟩
  · obtain ⟨t, ht, hv, hrest⟩ := finish_spec s x (s.readV x &&& s.readV y)
    exact ⟨t, ht, fun b _ => by rw [hv, BitVec.getLsbD_and], hrest⟩
  · obtain ⟨t, ht, hv, hrest⟩ := finish_spec s x (s.readV x ^^^ s.readV y)
    exact ⟨t, ht, fun b _ => by rw [hv, BitVec.getLsbD_xor], hrest⟩

/-! ### Add, subtract and shift -/

/-- Settles O24: the sum is the result and the carry the flag. -/
theorem addSetsTheCarry : Obligations.AddSetsTheCarry := by
  unfold Obligations.AddSetsTheCarry
  refine ⟨decodesFXY_addReg, fun s x y => ?_⟩
  exact finishFlag_spec s x (BitVec.toNat_add _ _) (toNat_carryFlag _ _)

/-- Settles O25: the difference is the result and no-borrow the flag, 8XY7 with the operands exchanged. -/
theorem subtractsSetNoBorrow : Obligations.SubtractsSetNoBorrow := by
  unfold Obligations.SubtractsSetNoBorrow
  refine ⟨decodesFXY_subReg, decodesFXY_subnReg, fun s x y => ⟨?_, ?_⟩⟩
  · exact finishFlag_spec s x (toNat_byte_sub (s.readV x) (s.readV y)) (toNat_noBorrowFlag _ _)
  · exact finishFlag_spec s x (toNat_byte_sub (s.readV y) (s.readV x)) (toNat_noBorrowFlag _ _)

/-- Settles O26: the shifted source is the result and the bit out the flag. -/
theorem shiftsPutTheBitOutInVF : Obligations.ShiftsPutTheBitOutInVF := by
  unfold Obligations.ShiftsPutTheBitOutInVF
  refine ⟨decodesFXY_shr, decodesFXY_shl, fun s x y src hy hx => ?_⟩
  obtain rfl : shiftSource s x y = src := shiftSource_eq hy hx
  refine ⟨?_, ?_⟩
  · exact finishFlag_spec s x (toNat_byte_ushiftRight_one _) (toNat_lowBitFlag _)
  · exact finishFlag_spec s x (toNat_byte_shiftLeft_one _) (toNat_highBitFlag _)

end Sys2Proof.Machine
end

section
/-! Index register and memory (42_index_memory.md R85 to R91): which words are its instructions, the frames of a write
to I, of a stored block and of a loaded block, each value of I as a number, and each decimal digit. -/

namespace Sys2Proof.Machine

open Sys2Proof.Safety

/-! ### Decoding (R50) -/

theorem decodesFA_ldI : DecodesFA 0xA .ldI := fun op h => by simp [decode, h]

/-- Family F is decoded by NN alone. -/
theorem decodesFX_misc {nn : Byte} {mk : RegIdx → Instr}
    (h : ∀ op, fieldNN op = nn → decodeMisc op = some (mk (fieldX op))) : DecodesFX 0xF nn mk :=
  fun op ht hn => by simp [decode, ht, h op hn]

theorem decodesFX_addI : DecodesFX 0xF 0x1E .addI := decodesFX_misc fun op h => by simp [decodeMisc, h]

theorem decodesFX_ldF : DecodesFX 0xF 0x29 .ldF := decodesFX_misc fun op h => by simp [decodeMisc, h]

theorem decodesFX_ldB : DecodesFX 0xF 0x33 .ldB := decodesFX_misc fun op h => by simp [decodeMisc, h]

theorem decodesFX_storeRegs : DecodesFX 0xF 0x55 .storeRegs := decodesFX_misc fun op h => by simp [decodeMisc, h]

theorem decodesFX_loadRegs : DecodesFX 0xF 0x65 .loadRegs := decodesFX_misc fun op h => by simp [decodeMisc, h]

/-! ### Frames -/

/-- Writing I keeps a frame that lists I. -/
theorem sameExcept_setI {w : Writes} {s t : State} (h : SameExcept w s t) (hw : w.index = true) (v : Word) :
    SameExcept w s (t.setI v) :=
  { h with index := fun hf => absurd hw (ne_true_of_eq_false hf) }

/-- Storing a block keeps a frame that lists every address of the block. -/
theorem sameExcept_storeBytes {w : Writes} {s t : State} (h : SameExcept w s t) (a : Nat) (bs : List Byte)
    (hw : addrRange a bs.length ⊆ w.bytes) : SameExcept w s (t.storeBytes a bs) :=
  { h with
    bytes k hk := by
      have hout : ¬ (a ≤ k ∧ k < a + bs.length) := fun hin => hk (hw ((mem_addrRange _ _ _).2 hin))
      rw [State.storeBytes_byteAt_outside t a bs (by omega), h.bytes k hk] }

/-- What V[r] holds once V[0]..V[x] are loaded from address a (R90). -/
theorem readV_loadBlock (s : State) (x : RegIdx) (a : Nat) (r : RegIdx) :
    State.readV { s with v := loadBlock s x a } r = if r ≤ x then s.byteAt (a + r.val) else s.readV r :=
  Vector.getElem_ofFn r.isLt

/-- Loading V[0]..V[x] writes no register above V[x]. -/
theorem sameExcept_loadBlock (s : State) (x : RegIdx) (a : Nat) :
    SameExcept { index := true, regs := (List.finRange 16).filter (· ≤ x) } s { s with v := loadBlock s x a } :=
  { sameExcept_refl { index := true, regs := (List.finRange 16).filter (· ≤ x) } s with
    regs r hr := by
      have habove : ¬ r ≤ x := fun hle => hr (List.mem_filter.2 ⟨List.mem_finRange r, decide_eq_true hle⟩)
      rw [readV_loadBlock, if_neg habove] }

/-! ### Values of I (R85 to R87, R89, R90) -/

theorem toNat_index_add (i : Word) (b : Byte) : (i + b.setWidth 16).toNat = (i.toNat + b.toNat) % 65536 := by
  rw [BitVec.toNat_add, BitVec.toNat_setWidth_of_le (by decide)]

/-- FONT_BASE is at most 0x1B0, so every glyph's address fits in 16 bits. -/
theorem toNat_glyphAddr (s : State) (b : Byte) : (glyphAddr s b).toNat = s.cfg.fontBase.val + 5 * (b.toNat % 16) := by
  have hbase := s.cfg.fontBase.isLt
  rw [glyphAddr, BitVec.toNat_ofNat, Nat.mod_eq_of_lt (by omega)]

/-- The address past a block that lies in memory is at most 0x1000, so 16 bits hold it. -/
theorem toNat_indexAfterBlock (s : State) (x : RegIdx) (h : s.i.toNat + x.val ≤ 0xFFF) :
    (indexAfterBlock s x).toNat = if s.cfg.ldstIncrementsI then s.i.toNat + x.val + 1 else s.i.toNat := by
  rw [indexAfterBlock, apply_ite BitVec.toNat, BitVec.toNat_add, BitVec.toNat_ofNat]
  congr 1
  omega

/-- Writing I and going on: I holds the value, and nothing else but PC is written. -/
theorem setI_advance_spec (s : State) {v : Word} {n : Nat} (hv : v.toNat = n) :
    ∃ t, (.next (s.setI v).advance : Result) = .next t ∧ t.i.toNat = n ∧ t.pc = s.pc + 2 ∧
      SameExcept { index := true } s t :=
  ⟨_, rfl, hv, rfl, sameExcept_setPc (sameExcept_setI (sameExcept_refl _ s) rfl v) _⟩

/-- Settles O29: all three write I and go on. -/
theorem indexInstructionsSetIOnly : Obligations.IndexInstructionsSetIOnly := by
  unfold Obligations.IndexInstructionsSetIOnly
  refine ⟨decodesFA_ldI, decodesFX_addI, decodesFX_ldF, fun s nnn => ?_, fun s x => ⟨?_, ?_⟩⟩
  · exact setI_advance_spec s (toNat_addrOf nnn)
  · exact setI_advance_spec s (toNat_index_add s.i (s.readV x))
  · exact setI_advance_spec s (toNat_glyphAddr s (s.readV x))

/-! ### Decimal digits (R88) -/

/-- A decimal digit fits in a byte. -/
theorem toNat_digit {n : Nat} (h : n < 10) : (BitVec.ofNat 8 n).toNat = n :=
  (BitVec.toNat_ofNat n 8).trans (Nat.mod_eq_of_lt (by omega))

/-- Settles O30: the digits are stored as a block of three bytes at I, unless it leaves memory. -/
theorem bcdStoresThreeDigits : Obligations.BcdStoresThreeDigits := by
  unfold Obligations.BcdStoresThreeDigits
  refine ⟨decodesFX_ldB, fun s x hwf hin => ?_, fun s x hout => ?_⟩
  · have hv := (s.readV x).isLt
    have hbyte : ∀ k (hk : k < 3), (s.storeBytes s.i.toNat (decimalDigits (s.readV x))).byteAt (s.i.toNat + k) =
        (decimalDigits (s.readV x))[k]'hk :=
      s.storeBytes_byteAt_inside hwf s.i.toNat (decimalDigits (s.readV x)) (show s.i.toNat + 3 ≤ 4096 by omega)
    refine ⟨_, withDataRange_of_inRange (by omega), ?_, ?_, ?_, rfl, ?_⟩
    · exact (congrArg BitVec.toNat (hbyte 0 (by decide))).trans (toNat_digit (by omega))
    · exact (congrArg BitVec.toNat (hbyte 1 (by decide))).trans (toNat_digit (by omega))
    · exact (congrArg BitVec.toNat (hbyte 2 (by decide))).trans (toNat_digit (by omega))
    · exact sameExcept_setPc (sameExcept_storeBytes (sameExcept_refl _ s) _ _ (List.Subset.refl _)) _
  · exact withDataRange_of_outside (by decide) (by omega)

/-! ### Register blocks (R89, R90) -/

/-- Settles O31: the registers are stored as a block of X + 1 bytes at I, unless it leaves memory. -/
theorem storeRegistersAscendFromIndex : Obligations.StoreRegistersAscendFromIndex := by
  unfold Obligations.StoreRegistersAscendFromIndex
  refine ⟨decodesFX_storeRegs, fun s x hwf hin => ?_, fun s x hout => ?_⟩
  · have hlen := regBlock_length s x
    refine ⟨_, withDataRange_of_inRange (by omega), fun k hk => ?_, toNat_indexAfterBlock s x hin, rfl, ?_⟩
    · have hlt : k.val < (regBlock s x).length := hlen ▸ Nat.lt_succ_of_le hk
      rw [State.advance_byteAt, State.setI_byteAt,
        s.storeBytes_byteAt_inside hwf s.i.toNat (regBlock s x) (by omega) k.val hlt, regBlock_getElem s x k.val hlt]
    · have hsub : addrRange s.i.toNat (regBlock s x).length ⊆ addrRange s.i.toNat (x.val + 1) :=
        hlen ▸ List.Subset.refl _
      exact sameExcept_setPc (sameExcept_setI (sameExcept_storeBytes (sameExcept_refl _ s) _ _ hsub) rfl _) _
  · exact withDataRange_of_outside (Nat.succ_ne_zero _) (by omega)

/-- Settles O32: V[0]..V[X] are loaded from the block of X + 1 bytes at I, unless it leaves memory. -/
theorem loadRegistersAscendFromIndex : Obligations.LoadRegistersAscendFromIndex := by
  unfold Obligations.LoadRegistersAscendFromIndex
  refine ⟨decodesFX_loadRegs, fun s x hin => ?_, fun s x hout => ?_⟩
  · refine ⟨_, withDataRange_of_inRange (by omega), fun k hk => ?_, toNat_indexAfterBlock s x hin, rfl, ?_⟩
    · rw [State.advance_readV, State.setI_readV, readV_loadBlock, if_pos hk]
    · exact sameExcept_setPc (sameExcept_setI (sameExcept_loadBlock s x _) rfl _) _
  · exact withDataRange_of_outside (Nat.succ_ne_zero _) (by omega)

end Sys2Proof.Machine
end

section
/-! Display (43_display.md R93, R94): which words are its instructions, the frame of a written display, and what
plotting one bit, one row and a whole sprite makes of the pixels and of the collision flag. -/

namespace Sys2Proof.Machine

open Sys2Proof.Safety

theorem decode_drw (op : Word) (h : fieldT op = 0xD) :
    decode op = some (.drw (fieldX op) (fieldY op) (fieldN op).toNat) := by simp [decode, h]

/-- Writing the display keeps a frame that lists the display. -/
theorem sameExcept_setDisplay {w : Writes} {s t : State} (h : SameExcept w s t) (hw : w.display = true) (d : Display) :
    SameExcept w s (t.setDisplay d) :=
  { h with display := fun hf => absurd hw (ne_true_of_eq_false hf) }

/-- Settles O35: the display is replaced by the blank one. -/
theorem clearTurnsEveryPixelOff : Obligations.ClearTurnsEveryPixelOff := by
  unfold Obligations.ClearTurnsEveryPixelOff
  refine ⟨rfl, fun s => ⟨_, rfl, Display.pixel_blank, rfl, ?_⟩⟩
  exact sameExcept_setPc (sameExcept_setDisplay (sameExcept_refl _ s) rfl _) _

/-! ### Coordinates (R94) -/

theorem eq_wrapX_iff (px : Fin 64) (n : Nat) : px = wrapX n ↔ px.val = n % 64 := Fin.ext_iff

theorem eq_wrapY_iff (py : Fin 32) (n : Nat) : py = wrapY n ↔ py.val = n % 32 := Fin.ext_iff

/-- Fewer than 64 columns in a row stay apart however they wrap. -/
theorem wrapX_add_ne {m j k : Nat} (hjk : j < k) (hk : k < 64) : wrapX (m + j) ≠ wrapX (m + k) := by
  rw [Ne, eq_wrapX_iff]
  change ¬ (m + j) % 64 = (m + k) % 64
  omega

/-- Fewer than 32 rows stay apart however they wrap. -/
theorem wrapY_add_ne {m r k : Nat} (hrk : r < k) (hk : k < 32) : wrapY (m + r) ≠ wrapY (m + k) := by
  rw [Ne, eq_wrapY_iff]
  change ¬ (m + r) % 32 = (m + k) % 32
  omega

/-! ### Inverting a set of pixels and noting collisions (R94) -/

/-- From `a` to `b`, displays with their collision notes, exactly the pixels in `P` are inverted, and the note is set if
it was set before or a pixel of `P` was on. -/
structure Inverts (P : Fin 32 → Fin 64 → Prop) (a b : Display × Bool) : Prop where
  inside : ∀ py px, P py px → b.1.pixel py px = !a.1.pixel py px
  outside : ∀ py px, ¬ P py px → b.1.pixel py px = a.1.pixel py px
  collision : b.2 = true ↔ a.2 = true ∨ ∃ py px, P py px ∧ a.1.pixel py px = true

/-- Nothing drawn inverts nothing. -/
theorem Inverts.refl {P : Fin 32 → Fin 64 → Prop} (hP : ∀ py px, ¬ P py px) (a : Display × Bool) : Inverts P a a where
  inside py px h := absurd h (hP py px)
  outside _ _ _ := rfl
  collision := ⟨.inl, fun h => h.elim id fun ⟨py, px, h, _⟩ => absurd h (hP py px)⟩

/-- Two drawings, one after the other, of sets without a common pixel draw their union: the second finds its pixels as
they were before the first. -/
theorem Inverts.trans {P Q R : Fin 32 → Fin 64 → Prop} {a b c : Display × Bool} (hab : Inverts P a b)
    (hbc : Inverts Q b c) (hR : ∀ py px, R py px ↔ P py px ∨ Q py px) (hPQ : ∀ py px, P py px → ¬ Q py px) :
    Inverts R a c where
  inside py px h := by
    obtain hp | hq := (hR py px).1 h
    · rw [hbc.outside py px (hPQ py px hp), hab.inside py px hp]
    · rw [hbc.inside py px hq, hab.outside py px fun hp => hPQ py px hp hq]
  outside py px h := by
    obtain ⟨hp, hq⟩ := not_or.1 (mt (hR py px).2 h)
    rw [hbc.outside py px hq, hab.outside py px hp]
  collision := by
    have hQ : (∃ py px, Q py px ∧ b.1.pixel py px = true) ↔ ∃ py px, Q py px ∧ a.1.pixel py px = true :=
      exists₂_congr fun py px => and_congr_right fun hq => by rw [hab.outside py px fun hp => hPQ py px hp hq]
    rw [hbc.collision, hab.collision, hQ, or_assoc]
    simp only [hR, or_and_right, exists_or]

/-! ### One bit, one row, the whole sprite -/

/-- One of the first k columns of the byte b, drawn in display row y from column x0 on, lands on the pixel (py, px). -/
def RowCovers (x0 : Nat) (y : Fin 32) (b : Byte) (k : Nat) (py : Fin 32) (px : Fin 64) : Prop :=
  ∃ j < k, spriteBit b j = true ∧ py = y ∧ px = wrapX (x0 + j)

theorem rowCovers_succ (x0 : Nat) (y : Fin 32) (b : Byte) (k : Nat) (py : Fin 32) (px : Fin 64) :
    RowCovers x0 y b (k + 1) py px ↔
      RowCovers x0 y b k py px ∨ (spriteBit b k = true ∧ py = y ∧ px = wrapX (x0 + k)) := by
  simp only [RowCovers, Nat.lt_succ_iff_lt_or_eq, or_and_right, exists_or, exists_eq_left]

/-- A set bit inverts its own pixel, a clear one none. -/
theorem plotBit_inverts (x0 : Nat) (y : Fin 32) (b : Byte) (acc : Display × Bool) (j : Nat) :
    Inverts (fun py px => spriteBit b j = true ∧ py = y ∧ px = wrapX (x0 + j)) acc (plotBit x0 y b acc j) := by
  cases hbit : spriteBit b j
  case false =>
    rw [plotBit, if_neg (ne_true_of_eq_false hbit)]
    exact Inverts.refl (fun _ _ h => Bool.false_ne_true h.1) acc
  case true =>
    rw [plotBit, if_pos hbit]
    refine ⟨fun py px h => ?_, fun py px h => ?_, ?_⟩
    · obtain ⟨-, rfl, rfl⟩ := h
      rw [Display.pixel_flip, if_pos ⟨rfl, rfl⟩]
    · rw [Display.pixel_flip, if_neg fun hpix => h ⟨rfl, hpix⟩]
    · simp

/-- The columns drawn so far are inverted: each next one is a pixel of its own. -/
theorem plotBits_invert (x0 : Nat) (y : Fin 32) (b : Byte) (acc : Display × Bool) {k : Nat} (hk : k ≤ 64) :
    Inverts (RowCovers x0 y b k) acc ((List.range k).foldl (plotBit x0 y b) acc) := by
  induction k with
  | zero => exact Inverts.refl (fun _ _ ⟨j, hj, _⟩ => Nat.not_lt_zero j hj) acc
  | succ k ih =>
    rw [List.range_succ, List.foldl_append]
    refine (ih (by omega)).trans (plotBit_inverts x0 y b _ k) (rowCovers_succ x0 y b k) ?_
    rintro py px ⟨j, hj, -, -, hpx⟩ ⟨-, -, hpx'⟩
    exact wrapX_add_ne hj hk (hpx.symm.trans hpx')

theorem drawRow_inverts (x0 : Nat) (y : Fin 32) (b : Byte) (acc : Display × Bool) :
    Inverts (RowCovers x0 y b 8) acc (drawRow x0 y b acc) :=
  plotBits_invert x0 y b acc (by decide)

/-- The last row is drawn last. -/
theorem drawRows_concat (x0 y0 : Nat) (bs : List Byte) (b : Byte) (acc : Display × Bool) :
    drawRows x0 y0 (bs ++ [b]) acc = drawRow x0 (wrapY (y0 + bs.length)) b (drawRows x0 y0 bs acc) := by
  induction bs generalizing y0 acc with
  | nil => rfl
  | cons c cs ih =>
    have hrow : y0 + (cs.length + 1) = y0 + 1 + cs.length := by omega
    rw [List.cons_append, drawRows, ih, drawRows, List.length_cons, hrow]

theorem drawSprite_succ (x y : RegIdx) (n : Nat) (s : State) :
    drawSprite x y (n + 1) s =
      drawRow (s.readV x).toNat (wrapY ((s.readV y).toNat + n)) (s.byteAt (s.i.toNat + n)) (drawSprite x y n s) := by
  have hbytes : s.bytesAt s.i.toNat (n + 1) = s.bytesAt s.i.toNat n ++ [s.byteAt (s.i.toNat + n)] := by
    simp only [State.bytesAt, List.range_succ, List.map_append, List.map_singleton]
  have hlen : (s.bytesAt s.i.toNat n).length = n := by rw [State.bytesAt, List.length_map, List.length_range]
  rw [drawSprite, hbytes, drawRows_concat, hlen, drawSprite]

/-- A pixel is covered in row r of the sprite as `RowCovers` says of that row's byte. -/
theorem spriteCovers_iff (s : State) (x y : RegIdx) (n : Nat) (py : Fin 32) (px : Fin 64) :
    SpriteCovers s x y n py px ↔ ∃ r < n,
      RowCovers (s.readV x).toNat (wrapY ((s.readV y).toNat + r)) (s.byteAt (s.i.toNat + r)) 8 py px := by
  simp only [SpriteCovers, RowCovers, spriteBit, eq_wrapX_iff, eq_wrapY_iff]
  constructor
  · rintro ⟨r, j, hr, hj, hbit, hpx, hpy⟩
    exact ⟨r, hr, j, hj, hbit, hpy, hpx⟩
  · rintro ⟨r, hr, j, hj, hbit, hpy, hpx⟩
    exact ⟨r, j, hr, hj, hbit, hpx, hpy⟩

theorem spriteCovers_succ (s : State) (x y : RegIdx) (n : Nat) (py : Fin 32) (px : Fin 64) :
    SpriteCovers s x y (n + 1) py px ↔ SpriteCovers s x y n py px ∨
      RowCovers (s.readV x).toNat (wrapY ((s.readV y).toNat + n)) (s.byteAt (s.i.toNat + n)) 8 py px := by
  simp only [spriteCovers_iff, Nat.lt_succ_iff_lt_or_eq, or_and_right, exists_or, exists_eq_left]

/-- Drawing a sprite inverts the pixels it covers: the rows drawn so far and the next one share none. -/
theorem drawSprite_inverts (s : State) (x y : RegIdx) {n : Nat} (hn : n ≤ 32) :
    Inverts (SpriteCovers s x y n) (s.display, false) (drawSprite x y n s) := by
  induction n with
  | zero => exact Inverts.refl (fun _ _ ⟨r, _, hr, _⟩ => Nat.not_lt_zero r hr) _
  | succ n ih =>
    rw [drawSprite_succ]
    refine (ih (by omega)).trans (drawRow_inverts ..) (spriteCovers_succ s x y n) fun py px hcov hrow => ?_
    obtain ⟨r, hr, _, _, _, hpy, _⟩ := (spriteCovers_iff ..).1 hcov
    obtain ⟨_, _, _, hpy', _⟩ := hrow
    exact wrapY_add_ne hr hn (hpy.symm.trans hpy')

/-- The collision flag of a sprite: some pixel it covers was on. -/
theorem drawSprite_collision_iff (s : State) (x y : RegIdx) {n : Nat} (hn : n ≤ 32) :
    (drawSprite x y n s).2 = true ↔ ∃ py px, SpriteCovers s x y n py px ∧ s.display.pixel py px = true :=
  (drawSprite_inverts s x y hn).collision.trans (or_iff_right Bool.false_ne_true)

/-! ### DXYN (R94) -/

/-- Settles O36: the display becomes what `drawSprite` makes of it and VF its collision flag, unless the sprite's bytes
leave memory. -/
theorem drawInvertsExactlyTheCoveredPixels : Obligations.DrawInvertsExactlyTheCoveredPixels := by
  unfold Obligations.DrawInvertsExactlyTheCoveredPixels
  refine ⟨decode_drw, fun s x y n hn hin => ?_, fun s x y n _ h0 hout => withDataRange_of_outside h0 (by omega)⟩
  have hinv := drawSprite_inverts s x y (show n ≤ 32 by omega)
  have hcol := drawSprite_collision_iff s x y (show n ≤ 32 by omega)
  refine ⟨_, withDataRange_of_inRange (by omega), hinv.inside, hinv.outside, fun h => ?_, fun h => ?_, rfl, ?_⟩
  · rw [State.advance_readV, State.readV_writeV_self, hcol.2 h]
    rfl
  · rw [State.advance_readV, State.readV_writeV_self, Bool.eq_false_iff.2 (mt hcol.1 h)]
    rfl
  · exact sameExcept_setPc
      (sameExcept_writeV (sameExcept_setDisplay (sameExcept_refl _ s) rfl _) List.mem_cons_self _) _

end Sys2Proof.Machine
end

section
/-! Keypad and timers (44_keypad_timers.md R97, R98, R100 to R103, R112): which words are its instructions, both sides
of a key skip, and the frame of a write to a timer. -/

namespace Sys2Proof.Machine

open Sys2Proof.Safety

/-! ### Decoding (R50) -/

/-- Family E is decoded by NN alone. -/
theorem decodesFX_key {nn : Byte} {mk : RegIdx → Instr}
    (h : ∀ op, fieldNN op = nn → decodeKey op = some (mk (fieldX op))) : DecodesFX 0xE nn mk :=
  fun op ht hn => by simp [decode, ht, h op hn]

theorem decodesFX_skp : DecodesFX 0xE 0x9E .skp := decodesFX_key fun op h => by simp [decodeKey, h]

theorem decodesFX_sknp : DecodesFX 0xE 0xA1 .sknp := decodesFX_key fun op h => by simp [decodeKey, h]

theorem decodesFX_ldVxDt : DecodesFX 0xF 0x07 .ldVxDt := decodesFX_misc fun op h => by simp [decodeMisc, h]

theorem decodesFX_ldDtVx : DecodesFX 0xF 0x15 .ldDtVx := decodesFX_misc fun op h => by simp [decodeMisc, h]

theorem decodesFX_ldStVx : DecodesFX 0xF 0x18 .ldStVx := decodesFX_misc fun op h => by simp [decodeMisc, h]

/-! ### Key skips (R97, R98, R103) -/

theorem keyOf_eq_some {b : Byte} {k : KeyIdx} (h : b.toNat = k.val) : keyOf b = some k :=
  (keyOf_of_lt b (h ▸ k.isLt)).trans (congrArg some (Fin.ext h))

theorem skipOnKey_of_key {s : State} {x : RegIdx} {k : KeyIdx} (h : (s.readV x).toNat = k.val) (i : Instr)
    (level : Bool) : skipOnKey i x level s = .next (s.skipIf (s.keys[k.val] == level)) := by
  simp only [skipOnKey, keyOf_eq_some h]

theorem skipOnKey_of_no_key {s : State} {x : RegIdx} (h : 15 < (s.readV x).toNat) (i : Instr) (level : Bool) :
    skipOnKey i x level s = .fault (.keyIndexOutOfRange s.pc (encode i) (s.readV x)) := by
  simp only [skipOnKey, keyOf_of_ge _ h, raise]

/-- A key skip on the key k skips iff k has the level asked for, and moves PC alone. -/
theorem skipOnKey_spec {s : State} {x : RegIdx} {k : KeyIdx} (h : (s.readV x).toNat = k.val) (i : Instr)
    (level : Bool) :
    ∃ t, skipOnKey i x level s = .next t ∧ (s.keys[k.val] = level → t.pc = s.pc + 4) ∧
      (s.keys[k.val] = !level → t.pc = s.pc + 2) ∧ SameExcept {} s t := by
  refine ⟨_, skipOnKey_of_key h i level, fun hk => ?_, fun hk => ?_, sameExcept_skipIf (sameExcept_refl _ s) _⟩
  · rw [hk, beq_self_eq_true]; rfl
  · rw [hk, Bool.not_beq_self]; rfl

/-- Settles O39: both are the key skip, EX9E for a pressed key and EXA1 for one that is not. -/
theorem keySkipsTestOneKey : Obligations.KeySkipsTestOneKey := by
  unfold Obligations.KeySkipsTestOneKey
  refine ⟨decodesFX_skp, decodesFX_sknp, fun s x k h => ⟨?_, ?_⟩, fun s x h => ⟨?_, ?_⟩⟩
  · exact skipOnKey_spec h (.skp x) true
  · exact skipOnKey_spec h (.sknp x) false
  · exact skipOnKey_of_no_key h (.skp x) true
  · exact skipOnKey_of_no_key h (.sknp x) false

/-! ### Timers (R100 to R102, R112) -/

/-- Writing DT keeps a frame that lists DT. -/
theorem sameExcept_setDt {w : Writes} {s t : State} (h : SameExcept w s t) (hw : w.dt = true) (b : Byte) :
    SameExcept w s (t.setDt b) :=
  { h with dt := fun hf => absurd hw (ne_true_of_eq_false hf) }

/-- Writing ST keeps a frame that lists ST. -/
theorem sameExcept_setSt {w : Writes} {s t : State} (h : SameExcept w s t) (hw : w.st = true) (b : Byte) :
    SameExcept w s (t.setSt b) :=
  { h with st := fun hf => absurd hw (ne_true_of_eq_false hf) }

theorem soundActive_iff (s : State) : soundActive s = true ↔ s.st ≠ 0 := bne_iff_ne

/-- Settles O42: FX07 finishes with DT as its result, FX15 and FX18 write a timer and go on. -/
theorem timerMovesCopyOneByte : Obligations.TimerMovesCopyOneByte := by
  unfold Obligations.TimerMovesCopyOneByte
  refine ⟨decodesFX_ldVxDt, decodesFX_ldDtVx, decodesFX_ldStVx, fun s x => ⟨?_, ?_, ?_⟩⟩
  · exact finish_spec s x s.dt
  · exact ⟨_, rfl, rfl, rfl, sameExcept_setPc (sameExcept_setDt (sameExcept_refl _ s) rfl _) _⟩
  · exact ⟨_, rfl, rfl, soundActive_iff _, rfl, sameExcept_setPc (sameExcept_setSt (sameExcept_refl _ s) rfl _) _⟩

end Sys2Proof.Machine
end

section
/-! The host's events and what the host sees (48_host_commands.md R107, R109 to R112, R122): the frames of LOAD, TICK and
SETKEY, the pixels of GETDISPLAY, and what a step makes of ST, on which the sound output rests. -/

namespace Sys2Proof.Machine

open Sys2Proof.Safety

/-! ### LOAD (R107, R122) -/

theorem applyEvent_load_of_fits {s : State} {bytes : List Byte} (hl : s.loaded = false) (hlen : bytes.length ≤ 3584) :
    applyEvent (.load bytes) s = .next { s.storeBytes 0x200 bytes with loaded := true } := by
  rcases loadProgram_cases bytes s with ⟨hl', -⟩ | ⟨-, hlong, -⟩ | ⟨-, -, h⟩
  · exact absurd (hl.symm.trans hl') Bool.false_ne_true
  · omega
  · exact h

theorem applyEvent_load_of_too_large {s : State} {bytes : List Byte} (hl : s.loaded = false)
    (hlen : 3584 < bytes.length) : applyEvent (.load bytes) s = .fault (.loadTooLarge bytes.length) := by
  rcases loadProgram_cases bytes s with ⟨hl', -⟩ | ⟨-, -, h⟩ | ⟨-, hfits, -⟩
  · exact absurd (hl.symm.trans hl') Bool.false_ne_true
  · exact h
  · omega

/-- Recording a LOAD keeps a frame that lists the record. -/
theorem sameExcept_setLoaded {w : Writes} {s t : State} (h : SameExcept w s t) (hw : w.loaded = true) (b : Bool) :
    SameExcept w s { t with loaded := b } :=
  { h with loaded := fun hf => absurd hw (ne_true_of_eq_false hf) }

/-- Settles O43: an image that fits is stored as a block at 0x200, and the LOAD recorded. -/
theorem loadCopiesTheImage : Obligations.LoadCopiesTheImage := by
  unfold Obligations.LoadCopiesTheImage
  refine ⟨fun s bytes hwf hl hlen => ?_, fun s bytes => applyEvent_load_of_too_large⟩
  refine ⟨_, applyEvent_load_of_fits hl hlen, ?_, rfl, ?_⟩
  · exact s.storeBytes_byteAt_inside hwf 0x200 bytes (by omega)
  · exact sameExcept_setLoaded (sameExcept_storeBytes (sameExcept_refl _ s) _ _ (List.Subset.refl _)) rfl true

/-! ### GETDISPLAY (R111) -/

/-- Element y * 64 + x of the view divides by 64 into the row y and the column x. -/
theorem getElem_getDisplay (s : State) (y : Fin 32) (x : Fin 64) :
    (getDisplay s)[y.val * 64 + x.val]'(by omega) = s.display.pixel y x := by
  have hdiv : (y.val * 64 + x.val) / 64 = y.val := by omega
  have hmod : (y.val * 64 + x.val) % 64 = x.val := by omega
  simp only [getDisplay, Vector.getElem_ofFn, hdiv, hmod, Display.pixel]

/-- Settles O38: the view is `getDisplay s`. -/
theorem getDisplayShowsEveryPixel : Obligations.GetDisplayShowsEveryPixel := by
  unfold Obligations.GetDisplayShowsEveryPixel
  exact fun s => ⟨getDisplay s, rfl, getElem_getDisplay s⟩

/-! ### TICK (R109) -/

@[simp] theorem tick_st (s : State) : (tick s).st = countDown s.st := rfl

/-- TICK writes the two timers alone. -/
theorem sameExcept_tick (s : State) : SameExcept { dt := true, st := true } s (tick s) :=
  sameExcept_setSt (sameExcept_setDt (sameExcept_refl _ s) rfl (countDown s.dt)) rfl (countDown s.st)

/-- Settles O44: both timers are counted down. -/
theorem tickCountsBothTimersDown : Obligations.TickCountsBothTimersDown := by
  unfold Obligations.TickCountsBothTimersDown
  exact fun s => ⟨tick s, rfl, toNat_countDown s.dt, toNat_countDown s.st, rfl, sameExcept_tick s⟩

/-! ### SETKEY (R110) -/

theorem getElem_setKey_self (k : KeyIdx) (p : Bool) (s : State) : (setKey k p s).keys[k.val] = p :=
  Vector.getElem_set_self k.isLt

theorem getElem_setKey_of_ne {j k : KeyIdx} (h : j ≠ k) (p : Bool) (s : State) :
    (setKey k p s).keys[j.val] = s.keys[j.val] :=
  Vector.getElem_set_ne k.isLt j.isLt fun e => h (Fin.ext e.symm)

/-- SETKEY writes K alone. -/
theorem sameExcept_setKey (k : KeyIdx) (p : Bool) (s : State) : SameExcept { keys := true } s (setKey k p s) :=
  { sameExcept_refl { keys := true } s with keys := nofun }

/-- Settles O45: one key of K is set. -/
theorem setKeySetsOneFlag : Obligations.SetKeySetsOneFlag := by
  unfold Obligations.SetKeySetsOneFlag
  intro s k p
  exact ⟨setKey k p s, rfl, getElem_setKey_self k p s, fun j hj => getElem_setKey_of_ne hj p s, rfl,
    sameExcept_setKey k p s⟩

/-! ### The sound output (R112) -/

/-- No instruction but FX18 writes ST (R17, R102). -/
theorem exec_next_st {i : Instr} {s t : State} (h : exec i s = .next t) (hi : ∀ x, i ≠ .ldStVx x) : t.st = s.st := by
  cases i <;> simp only [exec] at h
  case ldStVx x => exact absurd rfl (hi x)
  case ret => obtain ⟨_, rfl⟩ := execRet_next h; rfl
  case call => obtain ⟨_, rfl⟩ := execCall_next h; rfl
  case drw => obtain ⟨rfl, -⟩ := withDataRange_next h; rfl
  case ldB => obtain ⟨rfl, -⟩ := withDataRange_next h; rfl
  case storeRegs => obtain ⟨rfl, -⟩ := withDataRange_next h; rfl
  case loadRegs => obtain ⟨rfl, -⟩ := withDataRange_next h; rfl
  case skp => obtain ⟨c, rfl⟩ := skipOnKey_next h; exact State.skipIf_st s c
  case sknp => obtain ⟨c, rfl⟩ := skipOnKey_next h; exact State.skipIf_st s c
  case ldVxK => obtain ⟨k, -, rfl⟩ | ⟨-, rfl⟩ := execLdVxK_next h <;> rfl
  all_goals (cases h; simp)

@[simp] theorem waitStep_st (s : State) : (waitStep s).st = s.st := by
  obtain ⟨k, -, h⟩ | ⟨-, h⟩ := waitStep_cases s
  · rw [h]; rfl
  · rw [h]

/-- What a step that goes on can do to ST (R17): FX18, TICK and RESET write it. -/
theorem step_next_st {s t : State} (h : step s = .next t) :
    t.st = s.st ∨ (∃ x, Runs s (.ldStVx x)) ∨ (nextEvent s = .tick ∧ t.st = countDown s.st) ∨ nextEvent s = .reset := by
  obtain ⟨hreset, -⟩ | ⟨_, -, -, -, rfl⟩ | ⟨-, -, -, rfl⟩ | ⟨i, hruns, hexec⟩ | ⟨htick, rfl⟩ | ⟨_, _, -, rfl⟩ | ⟨-, rfl⟩ :=
    step_next_cases h
  · exact .inr (.inr (.inr hreset))
  · exact .inl rfl
  · exact .inl (waitStep_st _)
  · by_cases hi : ∃ x, i = .ldStVx x
    · obtain ⟨x, rfl⟩ := hi
      exact .inr (.inl ⟨x, hruns⟩)
    · exact .inl (exec_next_st (s := taken s) hexec fun x hx => hi ⟨x, hx⟩)
  · exact .inr (.inr (.inl ⟨htick, tick_st _⟩))
  · exact .inl rfl
  · exact .inl rfl

/-- A timer counted down is 0 only from 0 and from 1. -/
theorem countDown_eq_zero_iff (b : Byte) : countDown b = 0 ↔ b = 0 ∨ b = 1 := by
  simp only [← BitVec.toNat_inj, toNat_countDown]
  change b.toNat - 1 = 0 ↔ b.toNat = 0 ∨ b.toNat = 1
  omega

/-- Counting a timer down turns it off only from 1 to 0: from 0 it was off before, and from above 1 it stays on. -/
theorem eq_one_of_countDown_bne_ne {b : Byte} (h : (countDown b != 0) ≠ (b != 0)) : b = 1 ∧ countDown b = 0 := by
  by_cases h0 : b = 0
  · subst h0
    exact absurd rfl h
  · have hzero : countDown b = 0 := by
      by_contra hne
      exact h ((bne_iff_ne.2 hne).trans (bne_iff_ne.2 h0).symm)
    exact ⟨((countDown_eq_zero_iff b).1 hzero).resolve_left h0, hzero⟩

/-- Settles O46: the output follows ST, and of ST's writers TICK changes it only by taking ST from 1 to 0. -/
theorem soundChangesOnlyWhenItMay : Obligations.SoundChangesOnlyWhenItMay := by
  unfold Obligations.SoundChangesOnlyWhenItMay
  refine ⟨soundActive_iff, fun s t h hne => ?_⟩
  obtain hst | hruns | ⟨htick, hst⟩ | hreset := step_next_st h
  · exact absurd (congrArg (· != 0) hst) hne
  · exact .inl hruns
  · obtain ⟨h1, h0⟩ := eq_one_of_countDown_bne_ne (b := s.st) (by rwa [soundActive, soundActive, hst] at hne)
    exact .inr (.inl ⟨htick, h1, hst.trans h0⟩)
  · exact .inr (.inr hreset)

end Sys2Proof.Machine
end

section
/-! Faults (60_exceptions.md R115 to R123): the two that a CYCLE raises before it executes, the list of those that an
instruction raises, and that the execute step follows the list. -/

namespace Sys2Proof.Machine

open Sys2Proof.Safety

/-! ### Fetch and decode (R116, R117) -/

theorem cycle_of_pc_above {s : State} (hl : s.loaded = true) (hw : s.waiting = false) (hpc : 0xFFE < s.pc.toNat) :
    cycle s = .fault (.fetchOutOfRange s.pc) := by
  have hout : s.fetchInRange = false := decide_eq_false (Nat.not_le_of_lt hpc)
  simp [cycle, executeCycle, hl, hw, hout, raise]

theorem cycle_of_unknown_word {s : State} (hl : s.loaded = true) (hw : s.waiting = false) (hpc : s.pc.toNat ≤ 0xFFE)
    (hd : decode s.fetchWord = none) : cycle s = .fault (.unknownOpcode s.pc s.fetchWord) := by
  have hin : s.fetchInRange = true := decide_eq_true hpc
  simp [cycle, executeCycle, hl, hw, hin, hd, raise]

/-- Settles O12: the step is a CYCLE, which checks PC before the fetch and the word after it. -/
theorem fetchAndDecodeFaults : Obligations.FetchAndDecodeFaults := by
  unfold Obligations.FetchAndDecodeFaults
  intro s he hl hw
  have hstep : step s = cycle (taken s) := by rw [step_eq, he]; rfl
  refine ⟨fun hpc => ?_, fun hpc hd => ?_⟩
  · exact hstep.trans (cycle_of_pc_above hl hw hpc)
  · exact hstep.trans (cycle_of_unknown_word hl hw hpc hd)

/-! ### The list of an instruction's faults (R118 to R121) -/

/-- The instruction raises the fault in the state `s`: one constructor per instruction that can fault. -/
inductive Raises (s : State) : Instr → Fault → Prop where
  /-- R118. -/
  | call {nnn : Addr12} : s.sp.val = 16 → Raises s (.call nnn) (.stackOverflow s.pc (encode (.call nnn)))
  /-- R119. -/
  | ret : s.sp.val = 0 → Raises s .ret (.stackUnderflow s.pc (encode .ret))
  /-- R120; with N = 0 no byte is read. -/
  | drw {x y : RegIdx} {n : Nat} : n ≠ 0 → 0xFFF < s.i.toNat + n - 1 →
      Raises s (.drw x y n) (.dataOutOfRange s.pc (encode (.drw x y n)) s.i)
  /-- R120. -/
  | ldB {x : RegIdx} : 0xFFF < s.i.toNat + 2 → Raises s (.ldB x) (.dataOutOfRange s.pc (encode (.ldB x)) s.i)
  /-- R120. -/
  | storeRegs {x : RegIdx} : 0xFFF < s.i.toNat + x.val →
      Raises s (.storeRegs x) (.dataOutOfRange s.pc (encode (.storeRegs x)) s.i)
  /-- R120. -/
  | loadRegs {x : RegIdx} : 0xFFF < s.i.toNat + x.val →
      Raises s (.loadRegs x) (.dataOutOfRange s.pc (encode (.loadRegs x)) s.i)
  /-- R121. -/
  | skp {x : RegIdx} : 15 < (s.readV x).toNat →
      Raises s (.skp x) (.keyIndexOutOfRange s.pc (encode (.skp x)) (s.readV x))
  /-- R121. -/
  | sknp {x : RegIdx} : 15 < (s.readV x).toNat →
      Raises s (.sknp x) (.keyIndexOutOfRange s.pc (encode (.sknp x)) (s.readV x))

theorem exec_of_raises {s : State} {i : Instr} {f : Fault} (h : Raises s i f) : exec i s = .fault f := by
  cases h with
  | call hsp => exact exec_call_of_full s _ hsp
  | ret hsp => exact exec_ret_of_empty s hsp
  | drw hn hout => exact withDataRange_of_outside hn (by omega)
  | ldB hout => exact withDataRange_of_outside (by decide) (by omega)
  | storeRegs hout => exact withDataRange_of_outside (Nat.succ_ne_zero _) (by omega)
  | loadRegs hout => exact withDataRange_of_outside (Nat.succ_ne_zero _) (by omega)
  | skp hv => exact skipOnKey_of_no_key hv _ _
  | sknp hv => exact skipOnKey_of_no_key hv _ _

/-! ### Every instruction goes on or raises a fault of the list (R123) -/

theorem withDataRange_next_or_outside (i : Instr) (n : Nat) (s u : State) :
    (∃ t, withDataRange i n s (.next u) = .next t) ∨ (n ≠ 0 ∧ 4096 < s.i.toNat + n) := by
  obtain ⟨-, h⟩ | ⟨hn, hout, -⟩ := withDataRange_cases i n s (.next u)
  · exact .inl ⟨u, h⟩
  · exact .inr ⟨hn, hout⟩

theorem skipOnKey_next_or_no_key (i : Instr) (x : RegIdx) (level : Bool) (s : State) :
    (∃ t, skipOnKey i x level s = .next t) ∨ 15 < (s.readV x).toNat := by
  by_cases hv : (s.readV x).toNat < 16
  · exact .inl ⟨_, skipOnKey_of_key (k := ⟨_, hv⟩) rfl i level⟩
  · exact .inr (by omega)

/-- FX0A completes or starts to wait (R99). -/
theorem exec_ldVxK_next (x : RegIdx) (s : State) : ∃ t, exec (.ldVxK x) s = .next t := by
  cases h : s.firstKey with
  | some k => exact ⟨(s.writeV x (keyByte k)).advance, by simp only [exec, execLdVxK, h]⟩
  | none => exact ⟨s.startWaiting x, by simp only [exec, execLdVxK, h]⟩

theorem exec_next_or_raises (i : Instr) (s : State) : (∃ t, exec i s = .next t) ∨ ∃ f, Raises s i f := by
  cases i
  case call nnn =>
    by_cases hsp : s.sp.val < 16
    · exact .inl ⟨_, exec_call_of_lt s nnn hsp⟩
    · exact .inr ⟨_, .call (by omega)⟩
  case ret =>
    by_cases hsp : 0 < s.sp.val
    · exact .inl ⟨_, exec_ret_of_pos s hsp⟩
    · exact .inr ⟨_, .ret (by omega)⟩
  case drw x y n =>
    exact (withDataRange_next_or_outside ..).imp_right fun ⟨hn, hout⟩ => ⟨_, .drw hn (by omega)⟩
  case ldB x => exact (withDataRange_next_or_outside ..).imp_right fun ⟨_, hout⟩ => ⟨_, .ldB (by omega)⟩
  case storeRegs x => exact (withDataRange_next_or_outside ..).imp_right fun ⟨_, hout⟩ => ⟨_, .storeRegs (by omega)⟩
  case loadRegs x => exact (withDataRange_next_or_outside ..).imp_right fun ⟨_, hout⟩ => ⟨_, .loadRegs (by omega)⟩
  case skp x => exact (skipOnKey_next_or_no_key ..).imp_right fun hv => ⟨_, .skp hv⟩
  case sknp x => exact (skipOnKey_next_or_no_key ..).imp_right fun hv => ⟨_, .sknp hv⟩
  case ldVxK x => exact .inl (exec_ldVxK_next x s)
  all_goals exact .inl ⟨_, rfl⟩

theorem exec_eq_fault_iff (i : Instr) (s : State) (f : Fault) : exec i s = .fault f ↔ Raises s i f := by
  refine ⟨fun h => ?_, exec_of_raises⟩
  obtain ⟨t, ht⟩ | ⟨g, hg⟩ := exec_next_or_raises i s
  · cases ht.symm.trans h
  · cases (exec_of_raises hg).symm.trans h
    exact hg

theorem exec_ne_refused (i : Instr) (s : State) (r : Refusal) : exec i s ≠ .refused r := by
  intro h
  obtain ⟨t, ht⟩ | ⟨g, hg⟩ := exec_next_or_raises i s
  · cases ht.symm.trans h
  · cases (exec_of_raises hg).symm.trans h

/-! ### The list, fault by fault -/

theorem raises_stackOverflow_iff {s : State} {i : Instr} {pc op : Word} :
    Raises s i (.stackOverflow pc op) ↔ (∃ nnn, i = .call nnn) ∧ s.sp.val = 16 ∧ pc = s.pc ∧ op = encode i := by
  constructor
  · intro h
    cases h with
    | call hsp => exact ⟨⟨_, rfl⟩, hsp, rfl, rfl⟩
  · rintro ⟨⟨nnn, rfl⟩, hsp, rfl, rfl⟩
    exact .call hsp

theorem raises_stackUnderflow_iff {s : State} {i : Instr} {pc op : Word} :
    Raises s i (.stackUnderflow pc op) ↔ i = .ret ∧ s.sp.val = 0 ∧ pc = s.pc ∧ op = encode i := by
  constructor
  · intro h
    cases h with
    | ret hsp => exact ⟨rfl, hsp, rfl, rfl⟩
  · rintro ⟨rfl, hsp, rfl, rfl⟩
    exact .ret hsp

theorem raises_dataOutOfRange_iff {s : State} {i : Instr} {pc op idx : Word} :
    Raises s i (.dataOutOfRange pc op idx) ↔
      ((∃ x y n, i = .drw x y n ∧ n ≠ 0 ∧ 0xFFF < s.i.toNat + n - 1) ∨
       (∃ x, i = .ldB x ∧ 0xFFF < s.i.toNat + 2) ∨
       (∃ x : RegIdx, (i = .storeRegs x ∨ i = .loadRegs x) ∧ 0xFFF < s.i.toNat + x.val)) ∧
      pc = s.pc ∧ op = encode i ∧ idx = s.i := by
  constructor
  · intro h
    cases h with
    | drw hn hout => exact ⟨.inl ⟨_, _, _, rfl, hn, hout⟩, rfl, rfl, rfl⟩
    | ldB hout => exact ⟨.inr (.inl ⟨_, rfl, hout⟩), rfl, rfl, rfl⟩
    | storeRegs hout => exact ⟨.inr (.inr ⟨_, .inl rfl, hout⟩), rfl, rfl, rfl⟩
    | loadRegs hout => exact ⟨.inr (.inr ⟨_, .inr rfl, hout⟩), rfl, rfl, rfl⟩
  · rintro ⟨⟨x, y, n, rfl, hn, hout⟩ | ⟨x, rfl, hout⟩ | ⟨x, rfl | rfl, hout⟩, rfl, rfl, rfl⟩
    · exact .drw hn hout
    · exact .ldB hout
    · exact .storeRegs hout
    · exact .loadRegs hout

theorem raises_keyIndexOutOfRange_iff {s : State} {i : Instr} {pc op : Word} {vx : Byte} :
    Raises s i (.keyIndexOutOfRange pc op vx) ↔
      (∃ x, (i = .skp x ∨ i = .sknp x) ∧ 15 < (s.readV x).toNat ∧ vx = s.readV x) ∧ pc = s.pc ∧ op = encode i := by
  constructor
  · intro h
    cases h with
    | skp hv => exact ⟨⟨_, .inl rfl, hv, rfl⟩, rfl, rfl⟩
    | sknp hv => exact ⟨⟨_, .inr rfl, hv, rfl⟩, rfl, rfl⟩
  · rintro ⟨⟨x, rfl | rfl, hv, rfl⟩, rfl, rfl⟩
    · exact .skp hv
    · exact .sknp hv

/-- Settles O54: an instruction faults as the list `Raises` says, and the other faults are not on it. -/
theorem executionFaultsAreExactlyTheListed : Obligations.ExecutionFaultsAreExactlyTheListed := by
  unfold Obligations.ExecutionFaultsAreExactlyTheListed
  intro i s
  simp only [Ne, exec_eq_fault_iff]
  exact ⟨fun _ _ => raises_stackOverflow_iff, fun _ _ => raises_stackUnderflow_iff,
    fun _ _ _ => raises_dataOutOfRange_iff, fun _ _ _ => raises_keyIndexOutOfRange_iff, nofun, nofun, nofun,
    exec_ne_refused i s⟩

end Sys2Proof.Machine
end

section
/-! Decoder and encoder (30_encoding.md R46 to R54): decoding the word of an instruction, encoding what a word decodes
to, the opcode map row by row, and the unknown words. -/

namespace Sys2Proof.Machine

open Sys2Proof.Safety

/-! ### From an instruction to its word and back (R48, R50) -/

theorem decodesFXB_rnd : DecodesFXB 0xC .rnd := fun op h => by simp [decode, h]

theorem decodesFX_ldVxK : DecodesFX 0xF 0x0A .ldVxK := decodesFX_misc fun op h => by simp [decodeMisc, h]

theorem decode_wordFA {t : Nibble} {mk : Addr12 → Instr} (h : DecodesFA t mk) (nnn : Addr12) :
    decode (wordFA t nnn) = some (mk nnn) := by
  simpa using h (wordFA t nnn)

theorem decode_wordFXB {t : Nibble} {mk : RegIdx → Byte → Instr} (h : DecodesFXB t mk) (x : RegIdx) (nn : Byte) :
    decode (wordFXB t x nn) = some (mk x nn) := by
  simpa using h (wordFXB t x nn)

theorem decode_wordFXY {t n : Nibble} {mk : RegIdx → RegIdx → Instr} (h : DecodesFXY t n mk) (x y : RegIdx) :
    decode (wordFXY t x y n) = some (mk x y) := by
  simpa using h (wordFXY t x y n)

theorem decode_wordFX {t : Nibble} {nn : Byte} {mk : RegIdx → Instr} (h : DecodesFX t nn mk) (x : RegIdx) :
    decode (wordFXB t x nn) = some (mk x) := by
  simpa using h (wordFXB t x nn)

theorem decode_wordFXY_drw (x y : RegIdx) {n : Nat} (hn : n < 16) :
    decode (wordFXY 0xD x y (BitVec.ofNat 4 n)) = some (.drw x y n) := by
  rw [decode_drw _ (fieldT_wordFXY ..), fieldX_wordFXY, fieldY_wordFXY, fieldN_wordFXY, BitVec.toNat_ofNat,
    Nat.mod_eq_of_lt hn]

/-- Each instruction's word is one of its format, of which the decoder reads the fields back. -/
theorem decode_encode {i : Instr} (hi : i.WellFormed) : decode (encode i) = some i := by
  cases i
  case cls => rfl
  case ret => rfl
  case jp nnn => exact decode_wordFA decodesFA_jp nnn
  case call nnn => exact decode_wordFA decodesFA_call nnn
  case seImm x nn => exact decode_wordFXB decodesFXB_seImm x nn
  case sneImm x nn => exact decode_wordFXB decodesFXB_sneImm x nn
  case seReg x y => exact decode_wordFXY decodesFXY_seReg x y
  case sneReg x y => exact decode_wordFXY decodesFXY_sneReg x y
  case ldImm x nn => exact decode_wordFXB decodesFXB_ldImm x nn
  case addImm x nn => exact decode_wordFXB decodesFXB_addImm x nn
  case ldReg x y => exact decode_wordFXY decodesFXY_ldReg x y
  case orReg x y => exact decode_wordFXY decodesFXY_orReg x y
  case andReg x y => exact decode_wordFXY decodesFXY_andReg x y
  case xorReg x y => exact decode_wordFXY decodesFXY_xorReg x y
  case addReg x y => exact decode_wordFXY decodesFXY_addReg x y
  case subReg x y => exact decode_wordFXY decodesFXY_subReg x y
  case shr x y => exact decode_wordFXY decodesFXY_shr x y
  case subnReg x y => exact decode_wordFXY decodesFXY_subnReg x y
  case shl x y => exact decode_wordFXY decodesFXY_shl x y
  case ldI nnn => exact decode_wordFA decodesFA_ldI nnn
  case jpV0 nnn => exact decode_wordFA decodesFA_jpV0 nnn
  case rnd x nn => exact decode_wordFXB decodesFXB_rnd x nn
  case drw x y n => exact decode_wordFXY_drw x y (of_decide_eq_true hi)
  case skp x => exact decode_wordFX decodesFX_skp x
  case sknp x => exact decode_wordFX decodesFX_sknp x
  case ldVxDt x => exact decode_wordFX decodesFX_ldVxDt x
  case ldDtVx x => exact decode_wordFX decodesFX_ldDtVx x
  case ldStVx x => exact decode_wordFX decodesFX_ldStVx x
  case ldVxK x => exact decode_wordFX decodesFX_ldVxK x
  case addI x => exact decode_wordFX decodesFX_addI x
  case ldF x => exact decode_wordFX decodesFX_ldF x
  case ldB x => exact decode_wordFX decodesFX_ldB x
  case storeRegs x => exact decode_wordFX decodesFX_storeRegs x
  case loadRegs x => exact decode_wordFX decodesFX_loadRegs x

/-- The decoder takes the two bytes of the word, high byte first (R33), and leaves the rest. -/
theorem decodeBytes_bytesOfWord {op : Word} {i : Instr} (h : decode op = some i) (rest : List Byte) :
    decodeBytes (bytesOfWord op ++ rest) = .ok (i, rest) := by
  simp only [bytesOfWord, List.cons_append, List.nil_append, decodeBytes, wordOfBytes_bytes, h]

/-- Settles O6, from the round trip on words. -/
theorem decodeOfEncodeIsTheInstruction : Obligations.DecodeOfEncodeIsTheInstruction := by
  unfold Obligations.DecodeOfEncodeIsTheInstruction
  exact fun i hi => ⟨decode_encode hi, decodeBytes_bytesOfWord (decode_encode hi)⟩

/-! ### From a word to its instruction and back (R54) -/

theorem wordFA_of_fieldT {op : Word} {t : Nibble} (ht : fieldT op = t) : wordFA t (fieldNNN op) = op :=
  ht ▸ wordFA_fields op

theorem wordFXB_of_fieldT {op : Word} {t : Nibble} (ht : fieldT op = t) : wordFXB t (fieldX op) (fieldNN op) = op :=
  ht ▸ wordFXB_fields op

theorem wordFX_of_fields {op : Word} {t : Nibble} {nn : Byte} (ht : fieldT op = t) (hnn : fieldNN op = nn) :
    wordFXB t (fieldX op) nn = op :=
  hnn ▸ wordFXB_of_fieldT ht

theorem wordFXY_of_fields {op : Word} {t n : Nibble} (ht : fieldT op = t) (hn : fieldN op = n) :
    wordFXY t (fieldX op) (fieldY op) n = op :=
  ht ▸ hn ▸ wordFXY_fields op

/-- The instruction is one the encoding expresses, and the word is its encoding. -/
def Encodes (i : Instr) (op : Word) : Prop := i.WellFormed ∧ encode i = op

theorem encodes_of_decodeZero {op : Word} {i : Instr} (h : decodeZero op = some i) : Encodes i op := by
  unfold decodeZero at h
  split at h
  · next hop => cases h; exact ⟨rfl, hop.symm⟩
  · split at h
    · next hop => cases h; exact ⟨rfl, hop.symm⟩
    · cases h

theorem encodes_of_decodeAlu {op : Word} {i : Instr} (ht : fieldT op = 0x8) (h : decodeAlu op = some i) :
    Encodes i op := by
  unfold decodeAlu at h
  split at h
  case h_10 => cases h
  all_goals
    next hn => cases h; exact ⟨rfl, wordFXY_of_fields ht (BitVec.eq_of_toNat_eq hn)⟩

theorem encodes_of_decodeKey {op : Word} {i : Instr} (ht : fieldT op = 0xE) (h : decodeKey op = some i) :
    Encodes i op := by
  unfold decodeKey at h
  split at h
  case h_3 => cases h
  all_goals
    next hnn => cases h; exact ⟨rfl, wordFX_of_fields ht (BitVec.eq_of_toNat_eq hnn)⟩

theorem encodes_of_decodeMisc {op : Word} {i : Instr} (ht : fieldT op = 0xF) (h : decodeMisc op = some i) :
    Encodes i op := by
  unfold decodeMisc at h
  split at h
  case h_10 => cases h
  all_goals
    next hnn => cases h; exact ⟨rfl, wordFX_of_fields ht (BitVec.eq_of_toNat_eq hnn)⟩

theorem encodes_drw {op : Word} (ht : fieldT op = 0xD) :
    Encodes (.drw (fieldX op) (fieldY op) (fieldN op).toNat) op :=
  ⟨decide_eq_true (fieldN op).isLt, wordFXY_of_fields ht (by simp)⟩

/-- Every family reads the fields its format is assembled from, so no bit is dropped. -/
theorem encodes_of_decode {op : Word} {i : Instr} (h : decode op = some i) : Encodes i op := by
  unfold decode at h
  split at h
  case h_1 => exact encodes_of_decodeZero h
  case h_6 ht | h_10 ht =>
    split at h
    · next hn => cases h; exact ⟨rfl, wordFXY_of_fields (BitVec.eq_of_toNat_eq ht) hn⟩
    · cases h
  case h_9 ht => exact encodes_of_decodeAlu (BitVec.eq_of_toNat_eq ht) h
  case h_14 ht => cases h; exact encodes_drw (BitVec.eq_of_toNat_eq ht)
  case h_15 ht => exact encodes_of_decodeKey (BitVec.eq_of_toNat_eq ht) h
  case h_16 ht => exact encodes_of_decodeMisc (BitVec.eq_of_toNat_eq ht) h
  case h_17 => cases h
  case h_4 ht | h_5 ht | h_7 ht | h_8 ht | h_13 ht =>
    cases h; exact ⟨rfl, wordFXB_of_fieldT (BitVec.eq_of_toNat_eq ht)⟩
  case h_2 ht | h_3 ht | h_11 ht | h_12 ht =>
    cases h; exact ⟨rfl, wordFA_of_fieldT (BitVec.eq_of_toNat_eq ht)⟩

/-- Settles O7. -/
theorem encodeOfDecodeIsTheWord : Obligations.EncodeOfDecodeIsTheWord := by
  unfold Obligations.EncodeOfDecodeIsTheWord
  exact fun op i => encodes_of_decode

/-! ### The opcode map (R51) -/

open Laws in
/-- Every instruction's word is a word of a row with its name. -/
theorem encodesRow (i : Instr) : EncodesRow.Statement i := by
  cases i
  case cls => exact EncodesRow.cls
  case ret => exact EncodesRow.ret
  case jp nnn => exact EncodesRow.jp nnn
  case call nnn => exact EncodesRow.call nnn
  case seImm x nn => exact EncodesRow.seImm x nn
  case sneImm x nn => exact EncodesRow.sneImm x nn
  case seReg x y => exact EncodesRow.seReg x y
  case sneReg x y => exact EncodesRow.sneReg x y
  case ldImm x nn => exact EncodesRow.ldImm x nn
  case addImm x nn => exact EncodesRow.addImm x nn
  case ldReg x y => exact EncodesRow.ldReg x y
  case orReg x y => exact EncodesRow.orReg x y
  case andReg x y => exact EncodesRow.andReg x y
  case xorReg x y => exact EncodesRow.xorReg x y
  case addReg x y => exact EncodesRow.addReg x y
  case subReg x y => exact EncodesRow.subReg x y
  case shr x y => exact EncodesRow.shr x y
  case subnReg x y => exact EncodesRow.subnReg x y
  case shl x y => exact EncodesRow.shl x y
  case ldI nnn => exact EncodesRow.ldI nnn
  case jpV0 nnn => exact EncodesRow.jpV0 nnn
  case rnd x nn => exact EncodesRow.rnd x nn
  case drw x y n => exact EncodesRow.drw x y n
  case skp x => exact EncodesRow.skp x
  case sknp x => exact EncodesRow.sknp x
  case ldVxDt x => exact EncodesRow.ldVxDt x
  case ldDtVx x => exact EncodesRow.ldDtVx x
  case ldStVx x => exact EncodesRow.ldStVx x
  case ldVxK x => exact EncodesRow.ldVxK x
  case addI x => exact EncodesRow.addI x
  case ldF x => exact EncodesRow.ldF x
  case ldB x => exact EncodesRow.ldB x
  case storeRegs x => exact EncodesRow.storeRegs x
  case loadRegs x => exact EncodesRow.loadRegs x

theorem opcodeTable_names_nodup : (opcodeTable.map OpcodeRow.name).Nodup := by decide

/-- A word that decodes to an instruction of a row's name is a word of that row: the names of the rows differ. -/
theorem matches_of_decode {row : OpcodeRow} (hrow : row ∈ opcodeTable) {op : Word} {i : Instr}
    (hd : decode op = some i) (hname : patternName i = row.name) : op &&& row.mask = row.pattern := by
  obtain ⟨row', hrow', hname', hmatch⟩ := encodesRow i
  obtain rfl : row' = row :=
    List.inj_on_of_nodup_map opcodeTable_names_nodup hrow' hrow (hname'.trans hname)
  obtain ⟨-, henc⟩ := encodes_of_decode hd
  rwa [henc] at hmatch

/-- A word of the row decodes to an instruction of the row's name. -/
def DecodesToItsName (row : OpcodeRow) : Prop :=
  ∀ op : Word, op &&& row.mask = row.pattern → ∃ i, decode op = some i ∧ patternName i = row.name

theorem fieldT_and (op m : Word) : fieldT (op &&& m) = fieldT op &&& fieldT m := BitVec.extractLsb'_and
theorem fieldN_and (op m : Word) : fieldN (op &&& m) = fieldN op &&& fieldN m := BitVec.extractLsb'_and
theorem fieldNN_and (op m : Word) : fieldNN (op &&& m) = fieldNN op &&& fieldNN m := BitVec.extractLsb'_and

/-- A masked bit pattern gives each field that the mask keeps whole. -/
theorem fieldT_of_mask {op m p : Word} (hm : fieldT m = 0xF) (h : op &&& m = p) : fieldT op = fieldT p := by
  rw [← h, fieldT_and, hm]; exact BitVec.and_allOnes.symm

theorem fieldN_of_mask {op m p : Word} (hm : fieldN m = 0xF) (h : op &&& m = p) : fieldN op = fieldN p := by
  rw [← h, fieldN_and, hm]; exact BitVec.and_allOnes.symm

theorem fieldNN_of_mask {op m p : Word} (hm : fieldNN m = 0xFF) (h : op &&& m = p) : fieldNN op = fieldNN p := by
  rw [← h, fieldNN_and, hm]; exact BitVec.and_allOnes.symm

theorem decodesToItsName_word {name : String} {p : Word} {i : Instr} (hd : decode p = some i)
    (hname : patternName i = name) : DecodesToItsName ⟨name, 0xFFFF, p⟩ := by
  intro op h
  obtain rfl : op = p := (BitVec.and_allOnes (x := op)).symm.trans h
  exact ⟨i, hd, hname⟩

theorem decodesToItsName_T {name : String} {t : Nibble} {p : Word} (hp : fieldT p = t)
    (hd : ∀ op, fieldT op = t → ∃ i, decode op = some i ∧ patternName i = name) :
    DecodesToItsName ⟨name, 0xF000, p⟩ :=
  fun op h => hd op ((fieldT_of_mask (m := 0xF000) (by decide) h).trans hp)

theorem decodesToItsName_FXY {name : String} {t n : Nibble} {p : Word} {mk : RegIdx → RegIdx → Instr}
    (hd : DecodesFXY t n mk) (hp : fieldT p = t ∧ fieldN p = n) (hname : ∀ x y, patternName (mk x y) = name) :
    DecodesToItsName ⟨name, 0xF00F, p⟩ :=
  fun op h => ⟨_, hd op ((fieldT_of_mask (m := 0xF00F) (by decide) h).trans hp.1)
    ((fieldN_of_mask (m := 0xF00F) (by decide) h).trans hp.2), hname _ _⟩

theorem decodesToItsName_FX {name : String} {t : Nibble} {nn : Byte} {p : Word} {mk : RegIdx → Instr}
    (hd : DecodesFX t nn mk) (hp : fieldT p = t ∧ fieldNN p = nn) (hname : ∀ x, patternName (mk x) = name) :
    DecodesToItsName ⟨name, 0xF0FF, p⟩ :=
  fun op h => ⟨_, hd op ((fieldT_of_mask (m := 0xF0FF) (by decide) h).trans hp.1)
    ((fieldNN_of_mask (m := 0xF0FF) (by decide) h).trans hp.2), hname _⟩

/-- Row by row, each format by the fields its mask keeps. -/
theorem opcodeTable_decodesToItsName : ∀ row ∈ opcodeTable, DecodesToItsName row := by
  simp only [opcodeTable, List.cons_append, List.nil_append, List.forall_mem_cons]
  exact ⟨decodesToItsName_word (i := .cls) rfl rfl, decodesToItsName_word (i := .ret) rfl rfl,
    decodesToItsName_T (t := 0x1) rfl fun op h => ⟨_, decodesFA_jp op h, rfl⟩,
    decodesToItsName_T (t := 0x2) rfl fun op h => ⟨_, decodesFA_call op h, rfl⟩,
    decodesToItsName_T (t := 0x3) rfl fun op h => ⟨_, decodesFXB_seImm op h, rfl⟩,
    decodesToItsName_T (t := 0x4) rfl fun op h => ⟨_, decodesFXB_sneImm op h, rfl⟩,
    decodesToItsName_FXY decodesFXY_seReg (by decide) fun _ _ => rfl,
    decodesToItsName_FXY decodesFXY_sneReg (by decide) fun _ _ => rfl,
    decodesToItsName_T (t := 0x6) rfl fun op h => ⟨_, decodesFXB_ldImm op h, rfl⟩,
    decodesToItsName_T (t := 0x7) rfl fun op h => ⟨_, decodesFXB_addImm op h, rfl⟩,
    decodesToItsName_FXY decodesFXY_ldReg (by decide) fun _ _ => rfl,
    decodesToItsName_FXY decodesFXY_orReg (by decide) fun _ _ => rfl,
    decodesToItsName_FXY decodesFXY_andReg (by decide) fun _ _ => rfl,
    decodesToItsName_FXY decodesFXY_xorReg (by decide) fun _ _ => rfl,
    decodesToItsName_FXY decodesFXY_addReg (by decide) fun _ _ => rfl,
    decodesToItsName_FXY decodesFXY_subReg (by decide) fun _ _ => rfl,
    decodesToItsName_FXY decodesFXY_shr (by decide) fun _ _ => rfl,
    decodesToItsName_FXY decodesFXY_subnReg (by decide) fun _ _ => rfl,
    decodesToItsName_FXY decodesFXY_shl (by decide) fun _ _ => rfl,
    decodesToItsName_T (t := 0xA) rfl fun op h => ⟨_, decodesFA_ldI op h, rfl⟩,
    decodesToItsName_T (t := 0xB) rfl fun op h => ⟨_, decodesFA_jpV0 op h, rfl⟩,
    decodesToItsName_T (t := 0xC) rfl fun op h => ⟨_, decodesFXB_rnd op h, rfl⟩,
    decodesToItsName_T (t := 0xD) rfl fun op h => ⟨_, decode_drw op h, rfl⟩,
    decodesToItsName_FX decodesFX_skp (by decide) fun _ => rfl,
    decodesToItsName_FX decodesFX_sknp (by decide) fun _ => rfl,
    decodesToItsName_FX decodesFX_ldVxDt (by decide) fun _ => rfl,
    decodesToItsName_FX decodesFX_ldDtVx (by decide) fun _ => rfl,
    decodesToItsName_FX decodesFX_ldStVx (by decide) fun _ => rfl,
    decodesToItsName_FX decodesFX_ldVxK (by decide) fun _ => rfl,
    decodesToItsName_FX decodesFX_addI (by decide) fun _ => rfl,
    decodesToItsName_FX decodesFX_ldF (by decide) fun _ => rfl,
    decodesToItsName_FX decodesFX_ldB (by decide) fun _ => rfl,
    decodesToItsName_FX decodesFX_storeRegs (by decide) fun _ => rfl,
    decodesToItsName_FX decodesFX_loadRegs (by decide) fun _ => rfl, List.forall_mem_nil _⟩

/-- Any two rows differ on a bit that both masks keep. -/
theorem opcodeTable_patterns_differ :
    opcodeTable.Pairwise fun r r' => r.pattern &&& r'.mask ≠ r'.pattern &&& r.mask := by decide

/-- Settles O8. -/
theorem decodeFollowsTheOpcodeMap : Obligations.DecodeFollowsTheOpcodeMap := by
  unfold Obligations.DecodeFollowsTheOpcodeMap
  refine ⟨fun row hrow op => ⟨opcodeTable_decodesToItsName row hrow op, ?_⟩,
    opcodeTable_patterns_differ.imp fun {r r'} hne => ?_⟩
  · rintro ⟨i, hd, hname⟩
    exact matches_of_decode hrow hd hname
  · rintro ⟨op, h, h'⟩
    exact hne (by rw [← h, ← h', BitVec.and_assoc, BitVec.and_assoc, BitVec.and_comm r.mask])

/-! ### The unknown words (R53) -/

theorem decodeZero_eq_none_iff (op : Word) : decodeZero op = none ↔ op ≠ 0x00E0 ∧ op ≠ 0x00EE := by
  simp [decodeZero, ite_eq_iff]

theorem decodeAlu_eq_none_iff (op : Word) :
    decodeAlu op = none ↔ fieldN op ∈ ([0x8, 0x9, 0xA, 0xB, 0xC, 0xD, 0xF] : List Nibble) := by
  unfold decodeAlu
  split
  case h_10 =>
    have hlt := (fieldN op).isLt
    simp only [imp_false] at *
    simp only [List.mem_cons, List.not_mem_nil, BitVec.toNat_eq, BitVec.reduceToNat, true_iff]
    omega
  all_goals
    next hn => simp [BitVec.toNat_eq, hn]

theorem decodeKey_eq_none_iff (op : Word) : decodeKey op = none ↔ fieldNN op ∉ ([0x9E, 0xA1] : List Byte) := by
  unfold decodeKey
  split
  case h_3 => simp only [imp_false] at *; simp [BitVec.toNat_eq, *]
  all_goals
    next hnn => simp [BitVec.toNat_eq, hnn]

theorem decodeMisc_eq_none_iff (op : Word) : decodeMisc op = none ↔
    fieldNN op ∉ ([0x07, 0x0A, 0x15, 0x18, 0x1E, 0x29, 0x33, 0x55, 0x65] : List Byte) := by
  unfold decodeMisc
  split
  case h_10 => simp only [imp_false] at *; simp [BitVec.toNat_eq, *]
  all_goals
    next hnn => simp [BitVec.toNat_eq, hnn]

/-- Family 0 holds the words up to 0x0FFF. -/
theorem toNat_le_iff_fieldT_eq_zero (op : Word) : op.toNat ≤ 0x0FFF ↔ fieldT op = 0x0 := by
  rw [BitVec.toNat_eq, toNat_fieldT]
  change _ ↔ _ = 0
  omega

/-- Settles O9: the families 1 to 4, 6, 7 and A to D have no unknown word, and each other one those of its own list. -/
theorem unknownWordsAreExactlyTheListed : Obligations.UnknownWordsAreExactlyTheListed := by
  unfold Obligations.UnknownWordsAreExactlyTheListed
  intro op
  rw [toNat_le_iff_fieldT_eq_zero]
  unfold decode
  split
  case h_1 ht => simp only [decodeZero_eq_none_iff, BitVec.eq_of_toNat_eq (y := (0x0 : Nibble)) ht]; simp
  case h_9 ht => simp only [decodeAlu_eq_none_iff, BitVec.eq_of_toNat_eq (y := (0x8 : Nibble)) ht]; simp
  case h_15 ht => simp only [decodeKey_eq_none_iff, BitVec.eq_of_toNat_eq (y := (0xE : Nibble)) ht]; simp
  case h_16 ht => simp only [decodeMisc_eq_none_iff, BitVec.eq_of_toNat_eq (y := (0xF : Nibble)) ht]; simp
  case h_17 =>
    have hlt := (fieldT op).isLt
    simp only [imp_false] at *
    omega
  all_goals
    next ht => simp [BitVec.toNat_eq, ht]

/-- Settles O10: each word is a closed term, and the decoder is run on it. -/
theorem wordsOfTheSpecDecodeAsItSays : Obligations.WordsOfTheSpecDecodeAsItSays := by
  unfold Obligations.WordsOfTheSpecDecodeAsItSays
  decide

end Sys2Proof.Machine
end

section
/-! What each instruction may write and where it leaves PC (10_state.md R12 to R22, 40_control_flow.md R60), said once
for every instruction; VF's rule (R13) and the four ways of PC (R60) follow. -/

namespace Sys2Proof.Machine

open Sys2Proof.Safety

/-! ### The frame of every instruction -/

/-- The slot a push would write: none when the stack is full (R16). -/
def pushSlot (s : State) : List (Fin 16) := if h : s.sp.val < 16 then [⟨s.sp.val, h⟩] else []

/-- What an instruction may write when it runs in the state `s`, PC apart. -/
def mayWrite (s : State) : Instr → Writes
  | .cls => { display := true }
  | .ret => { sp := true }
  | .call _ => { slots := pushSlot s, sp := true }
  | .jp _ | .jpV0 _ | .seImm _ _ | .sneImm _ _ | .seReg _ _ | .sneReg _ _ | .skp _ | .sknp _ => {}
  | .ldImm x _ | .addImm x _ | .ldReg x _ | .orReg x _ | .andReg x _ | .xorReg x _ | .ldVxDt x => { regs := [x] }
  | .addReg x _ | .subReg x _ | .shr x _ | .subnReg x _ | .shl x _ => { regs := [x, VF] }
  | .rnd x _ => { regs := [x], draws := true }
  | .drw _ _ _ => { regs := [VF], display := true }
  | .ldVxK x => { regs := [x], wait := true }
  | .ldDtVx _ => { dt := true }
  | .ldStVx _ => { st := true }
  | .ldI _ | .addI _ | .ldF _ => { index := true }
  | .ldB _ => { bytes := addrRange s.i.toNat 3 }
  | .storeRegs x => { index := s.cfg.ldstIncrementsI, bytes := addrRange s.i.toNat (x.val + 1) }
  | .loadRegs x => { index := s.cfg.ldstIncrementsI, regs := (List.finRange 16).filter (· ≤ x) }

theorem sameExcept_consumeDraw {w : Writes} {s t : State} (h : SameExcept w s t) (hw : w.draws = true) :
    SameExcept w s t.consumeDraw :=
  { h with draws := fun hf => absurd hw (ne_true_of_eq_false hf) }

theorem sameExcept_startWaiting {w : Writes} {s t : State} (h : SameExcept w s t) (hw : w.wait = true) (x : RegIdx) :
    SameExcept w s (t.startWaiting x) :=
  { h with wait := fun hf => absurd hw (ne_true_of_eq_false hf) }

theorem sameExcept_stopWaiting {w : Writes} {s t : State} (h : SameExcept w s t) (hw : w.wait = true) :
    SameExcept w s t.stopWaiting :=
  { h with wait := fun hf => absurd hw (ne_true_of_eq_false hf) }

/-- I after FX55 or FX65 keeps a frame that lists I when LDST_INCREMENTS_I is true. -/
theorem sameExcept_setI_indexAfterBlock {w : Writes} {s t : State} (h : SameExcept w s t)
    (hw : w.index = s.cfg.ldstIncrementsI) (x : RegIdx) : SameExcept w s (t.setI (indexAfterBlock s x)) :=
  { h with
    index hf := by rw [State.setI_i, indexAfterBlock, if_neg (ne_true_of_eq_false (hw.symm.trans hf))] }

theorem sameExcept_of_finish {w : Writes} {s u t : State} {x : RegIdx} {b : Byte} (h : finish u x b = .next t)
    (hu : SameExcept w s u) (hx : x ∈ w.regs) : SameExcept w s t := by
  cases h; exact sameExcept_setPc (sameExcept_writeV hu hx b) _

theorem sameExcept_of_finishFlag {s t : State} {x : RegIdx} {r f : Byte} (h : finishFlag s x r f = .next t) :
    SameExcept { regs := [x, VF] } s t := by
  cases h
  exact sameExcept_setPc (sameExcept_writeV (sameExcept_writeV (sameExcept_refl _ s) (by simp) r) (by simp) f) _

theorem sameExcept_of_skip {s t : State} {c : Bool} (h : (.next (s.skipIf c) : Result) = .next t) :
    SameExcept {} s t := by
  cases h; exact sameExcept_skipIf (sameExcept_refl _ s) c

theorem sameExcept_of_setI {s t : State} {v : Word} (h : (.next (s.setI v).advance : Result) = .next t) :
    SameExcept { index := true } s t := by
  cases h; exact sameExcept_setPc (sameExcept_setI (sameExcept_refl _ s) rfl v) _

/-- An instruction that goes on writes nothing but what `mayWrite` lists and PC. -/
theorem exec_next_sameExcept {i : Instr} {s t : State} (h : exec i s = .next t) : SameExcept (mayWrite s i) s t := by
  have hrefl := sameExcept_refl (mayWrite s i) s
  cases i <;> simp only [exec] at h
  case cls => cases h; exact sameExcept_setPc (sameExcept_setDisplay hrefl rfl _) _
  case ret => obtain ⟨_, rfl⟩ := execRet_next h; exact sameExcept_setPc (sameExcept_sp s _) _
  case jp => cases h; exact sameExcept_setPc hrefl _
  case jpV0 => cases h; exact sameExcept_setPc hrefl _
  case call =>
    obtain ⟨hsp, rfl⟩ := execCall_next h
    rw [mayWrite, pushSlot, dif_pos hsp]
    exact sameExcept_setPc (sameExcept_slot_sp s ⟨s.sp.val, hsp⟩ _ _) _
  case seImm | sneImm | seReg | sneReg => exact sameExcept_of_skip h
  case skp | sknp => obtain ⟨c, rfl⟩ := skipOnKey_next h; exact sameExcept_skipIf hrefl c
  case ldImm | addImm | ldReg | orReg | andReg | xorReg => exact sameExcept_of_finish h hrefl List.mem_cons_self
  case ldVxDt => cases h; exact sameExcept_setPc (sameExcept_writeV hrefl List.mem_cons_self _) _
  case addReg | subReg | shr | subnReg | shl => exact sameExcept_of_finishFlag h
  case rnd => exact sameExcept_of_finish h (sameExcept_consumeDraw hrefl rfl) List.mem_cons_self
  case drw =>
    obtain ⟨rfl, -⟩ := withDataRange_next h
    exact sameExcept_setPc (sameExcept_writeV (sameExcept_setDisplay hrefl rfl _) List.mem_cons_self _) _
  case ldVxK =>
    obtain ⟨k, -, rfl⟩ | ⟨-, rfl⟩ := execLdVxK_next h
    · exact sameExcept_setPc (sameExcept_writeV hrefl List.mem_cons_self _) _
    · exact sameExcept_startWaiting hrefl rfl _
  case ldDtVx => cases h; exact sameExcept_setPc (sameExcept_setDt hrefl rfl _) _
  case ldStVx => cases h; exact sameExcept_setPc (sameExcept_setSt hrefl rfl _) _
  case ldI | addI | ldF => exact sameExcept_of_setI h
  case ldB =>
    obtain ⟨rfl, -⟩ := withDataRange_next h
    exact sameExcept_setPc (sameExcept_storeBytes hrefl _ _ (List.Subset.refl _)) _
  case storeRegs x =>
    obtain ⟨rfl, -⟩ := withDataRange_next h
    have hsub : addrRange s.i.toNat (regBlock s x).length ⊆ addrRange s.i.toNat (x.val + 1) :=
      regBlock_length s x ▸ List.Subset.refl _
    exact sameExcept_setPc (sameExcept_setI_indexAfterBlock (sameExcept_storeBytes hrefl _ _ hsub) rfl x) _
  case loadRegs x =>
    obtain ⟨rfl, -⟩ := withDataRange_next h
    have hload : SameExcept (mayWrite s (.loadRegs x)) s { s with v := loadBlock s x s.i.toNat } :=
      { hrefl with regs := (sameExcept_loadBlock s x _).regs }
    exact sameExcept_setPc (sameExcept_setI_indexAfterBlock hload rfl x) _

/-! ### VF (R13) -/

/-- A flag-producing instruction writes VF last, and as a flag. -/
theorem exec_next_flag {i : Instr} {s t : State} (h : exec i s = .next t) (hi : flagProducing i = true) :
    ∃ b, t.readV VF = flagByte b := by
  cases i <;> simp only [exec] at h
  case addReg | subReg | shr | subnReg | shl => cases h; exact ⟨_, State.readV_writeV_self _ _ _⟩
  case drw => obtain ⟨rfl, -⟩ := withDataRange_next h; exact ⟨_, State.readV_writeV_self _ _ _⟩
  all_goals cases hi

theorem mayWrite_regs {i : Instr} (s : State) (hi : flagProducing i = false) :
    (mayWrite s i).regs = destinations i := by
  cases i
  case addReg | subReg | shr | subnReg | shl | drw => cases hi
  all_goals rfl

/-- Settles O28, from the flag written and from the frame. -/
theorem vfIsAFlagOrUntouched : Obligations.VFIsAFlagOrUntouched := by
  unfold Obligations.VFIsAFlagOrUntouched
  intro i s t h
  refine ⟨fun hi => ?_, fun hi hvf => ?_⟩
  · obtain ⟨b, hb⟩ := exec_next_flag h hi
    exact hb ▸ flagByte_eq b
  · exact (exec_next_sameExcept h).regs VF (mayWrite_regs s hi ▸ hvf)

/-! ### PC (R60) -/

/-- Where an instruction leaves PC. -/
inductive PcAfter (s : State) : Instr → Word → Prop where
  /-- `next`. -/
  | next {i : Instr} : PcAfter s i (s.pc + 2)
  /-- `skip`. -/
  | skip {i : Instr} : isSkip i = true → PcAfter s i (s.pc + 4)
  /-- R62. -/
  | jp {nnn : Addr12} : PcAfter s (.jp nnn) (addrOf nnn)
  /-- R63. -/
  | call {nnn : Addr12} : PcAfter s (.call nnn) (addrOf nnn)
  /-- R68. -/
  | jpV0 {nnn : Addr12} : PcAfter s (.jpV0 nnn) (jumpTarget s nnn)
  /-- R61. -/
  | ret (j : Fin 16) : j.val < s.sp.val → PcAfter s .ret s.stack[j.val]
  /-- R99. -/
  | wait {x : RegIdx} : NoKeyPressed s → PcAfter s (.ldVxK x) s.pc

theorem pcAfter_skipIf {s : State} {i : Instr} (hi : isSkip i = true) (c : Bool) : PcAfter s i (s.skipIf c).pc := by
  cases c
  case true => exact .skip hi
  case false => exact .next

theorem exec_next_pcAfter {i : Instr} {s t : State} (h : exec i s = .next t) : PcAfter s i t.pc := by
  cases i <;> simp only [exec] at h
  case ret => obtain ⟨hsp, rfl⟩ := execRet_next h; exact .ret ⟨s.sp.val - 1, by omega⟩ (by change _ - 1 < _; omega)
  case jp => cases h; exact .jp
  case call => obtain ⟨_, rfl⟩ := execCall_next h; exact .call
  case jpV0 => cases h; exact .jpV0
  case seImm | sneImm | seReg | sneReg => cases h; exact pcAfter_skipIf rfl _
  case skp | sknp => obtain ⟨c, rfl⟩ := skipOnKey_next h; exact pcAfter_skipIf rfl c
  case ldVxK =>
    obtain ⟨k, -, rfl⟩ | ⟨hno, rfl⟩ := execLdVxK_next h
    · exact .next
    · exact .wait hno
  case drw | ldB | storeRegs | loadRegs => obtain ⟨rfl, -⟩ := withDataRange_next h; exact .next
  all_goals cases h; exact .next

/-- Settles O53, way by way. -/
theorem pcIsSetInOneOfFourWays : Obligations.PcIsSetInOneOfFourWays := by
  unfold Obligations.PcIsSetInOneOfFourWays
  intro i s t h
  have hpc := exec_next_pcAfter h
  generalize t.pc = pc at hpc
  cases hpc with
  | next => exact .inl rfl
  | skip hi => exact .inr (.inl ⟨hi, rfl⟩)
  | jp | call | jpV0 | ret => exact .inr (.inr (.inl rfl))
  | wait hno => exact .inr (.inr (.inr ⟨_, rfl, hno, rfl⟩))

end Sys2Proof.Machine
end

section
/-! The step (48_host_commands.md R105 to R114, 60_exceptions.md, 70_reset_and_hazards.md): a CYCLE that runs an
instruction, the boot order, the reply to a fault, and the writers of each part of the state (10_state.md,
20_memory.md). -/

namespace Sys2Proof.Machine

open Sys2Proof.Safety

/-! ### A CYCLE that runs an instruction (R108) -/

theorem cycle_of_decode {s : State} {i : Instr} (hl : s.loaded = true) (hw : s.waiting = false)
    (hpc : s.pc.toNat ≤ 0xFFE) (hd : decode s.fetchWord = some i) : cycle s = exec i s := by
  have hin : s.fetchInRange = true := decide_eq_true hpc
  simp [cycle, executeCycle, hl, hw, hin, hd]

theorem step_of_runs {s : State} {i : Instr} (h : Runs s i) : step s = exec i (taken s) := by
  rw [step_eq, h.event]
  exact cycle_of_decode h.loaded h.notWaiting h.inRange h.decoded

/-- Settles O11. -/
theorem stepRunsTheDecodedInstruction : Obligations.StepRunsTheDecodedInstruction := by
  unfold Obligations.StepRunsTheDecodedInstruction
  exact ⟨fun s i h => step_of_runs h, fun s => toNat_wordOfBytes _ _⟩

/-- Settles O15: the word decodes to the jump to its own address. -/
theorem selfJumpIsAFixedPoint : Obligations.SelfJumpIsAFixedPoint := by
  unfold Obligations.SelfJumpIsAFixedPoint
  rintro s ⟨hw, hpc, hself⟩ hl hp
  have ht : fieldT s.fetchWord = 0x1 := by
    apply BitVec.eq_of_toNat_eq
    rw [toNat_fieldT, hself]
    change _ = 1
    omega
  have htarget : addrOf (fieldNNN s.fetchWord) = s.pc := by
    apply BitVec.eq_of_toNat_eq
    rw [toNat_addrOf, toNat_fieldNNN, hself]
    omega
  have hruns : Runs s (.jp (fieldNNN s.fetchWord)) :=
    ⟨by rw [nextEvent, hp]; rfl, hl, hw, hpc, decodesFA_jp _ ht⟩
  have htaken : taken s = s := by rw [taken, hp, List.tail_nil, ← hp]
  rw [step_of_runs hruns, htaken]
  change Host.Outcome.next (s.setPc (addrOf _)) = _
  rw [htarget]; rfl

/-! ### Boot order (R136) -/

theorem cycle_of_not_loaded {s : State} (hl : s.loaded = false) : cycle s = .refused .cycleBeforeLoad := by
  simp [cycle, hl]

theorem loadProgram_of_loaded {s : State} (hl : s.loaded = true) (bytes : List Byte) :
    loadProgram bytes s = .refused .loadOutOfOrder := by
  simp [loadProgram, hl]

/-- Settles O13: the refusals are CYCLE's and LOAD's own, and no other event looks at the record. -/
theorem eventsOutOfBootOrderAreRefused : Obligations.EventsOutOfBootOrderAreRefused := by
  unfold Obligations.EventsOutOfBootOrderAreRefused
  intro s
  simp only [step_eq]
  refine ⟨fun he hl => ?_, fun bytes he hl => ?_, fun bytes he hl hlen => ?_, fun he => ?_, fun he => ?_⟩
  · rw [he]; exact cycle_of_not_loaded hl
  · rw [he]; exact loadProgram_of_loaded (s := taken s) hl bytes
  · rw [he]; exact ⟨_, applyEvent_load_of_fits (s := taken s) hl hlen, rfl⟩
  · rw [he]; exact ⟨_, rfl, rfl⟩
  · obtain he | ⟨k, p, he⟩ | he := he <;> rw [he] <;> exact ⟨_, rfl, rfl⟩

/-! ### The reply to a fault (R124, R125) -/

theorem deliver_of_fault {e : HostEvent} {s : State} {f : Fault} (h : applyEvent e s = .fault f) :
    deliver e s = (s, .fault f.code f) := by
  simp only [deliver, h]

/-- A fault is replied to only where the event raises it. -/
theorem applyEvent_of_deliver_fault {e : HostEvent} {s t : State} {c : Nat} {f : Fault}
    (h : deliver e s = (t, .fault c f)) : applyEvent e s = .fault f := by
  unfold deliver at h
  split at h
  · cases e <;> cases h
  · next hf => cases h; exact hf
  · cases h

/-- Settles O14. -/
theorem faultedEventChangesNothingAndRepeats : Obligations.FaultedEventChangesNothingAndRepeats := by
  unfold Obligations.FaultedEventChangesNothingAndRepeats
  intro e s t c f h
  obtain ⟨rfl, hreply⟩ := Prod.mk.inj ((deliver_of_fault (applyEvent_of_deliver_fault h)).symm.trans h)
  cases hreply
  exact ⟨rfl, rfl, h, rfl, fun _ _ => rfl, rfl, rfl⟩

/-! ### What a faulting CYCLE reports (R117 to R121) -/

/-- The address and the word that a fault reports, if it reports a word. -/
def Fault.site : Fault → Option (Word × Word)
  | .unknownOpcode pc op | .stackOverflow pc op | .stackUnderflow pc op => some (pc, op)
  | .dataOutOfRange pc op _ | .keyIndexOutOfRange pc op _ => some (pc, op)
  | .fetchOutOfRange _ | .loadTooLarge _ => none

theorem raises_site {s : State} {i : Instr} {f : Fault} (h : Raises s i f) : f.site = some (s.pc, encode i) := by
  cases h <;> rfl

/-- An instruction reports its encoding, and that of the decoded instruction is the word it was decoded from (R54). -/
theorem cycle_fault_site {s : State} {f : Fault} {pc op : Word} (h : cycle s = .fault f) (hf : f.site = some (pc, op)) :
    pc = s.pc ∧ op = s.fetchWord := by
  obtain ⟨-, hc⟩ | ⟨-, -, hc⟩ | ⟨-, -, -, hc⟩ | ⟨-, -, -, -, hc⟩ | ⟨i, -, -, -, hd, hc⟩ := cycle_cases s <;>
    rw [hc] at h
  · cases h
  · cases h
  · cases h; cases hf
  · cases h; cases hf; exact ⟨rfl, rfl⟩
  · obtain ⟨-, henc⟩ := encodes_of_decode hd
    rw [raises_site ((exec_eq_fault_iff i s f).1 h), henc] at hf
    cases hf; exact ⟨rfl, rfl⟩

/-- Settles O55: each of the five faults has its address and word as its site. -/
theorem reportedWordIsTheFetchedWord : Obligations.ReportedWordIsTheFetchedWord := by
  unfold Obligations.ReportedWordIsTheFetchedWord
  intro s pc op he h
  have hsite : ∀ f : Fault, step s = .fault f → f.site = some (pc, op) → pc = s.pc ∧ op = s.fetchWord := by
    intro f hstep hf
    rw [step_eq, he] at hstep
    exact cycle_fault_site (s := taken s) hstep hf
  obtain h | h | h | ⟨_, h⟩ | ⟨_, h⟩ := h <;> exact hsite _ h rfl

/-! ### The writers of each part of the state -/

/-- What the next event of `s` may write when it goes on, RESET apart: one constructor per event, two for CYCLE. -/
inductive EventWrites (s : State) : Writes → Prop where
  /-- R107. -/
  | load {bytes : List Byte} : nextEvent s = .load bytes →
      EventWrites s { bytes := addrRange 0x200 bytes.length, loaded := true }
  /-- R99, a CYCLE with W = 1. -/
  | wait : EventWrites s { regs := [s.waitReg], wait := true }
  /-- R108. -/
  | run {i : Instr} : Runs s i → EventWrites s (mayWrite s i)
  /-- R109. -/
  | tick : nextEvent s = .tick → EventWrites s { dt := true, st := true }
  /-- R110. -/
  | setKey {k : KeyIdx} {p : Bool} : nextEvent s = .setKey k p → EventWrites s { keys := true }
  /-- R111. -/
  | getDisplay : EventWrites s {}

theorem waitStep_sameExcept (s : State) : SameExcept { regs := [s.waitReg], wait := true } s (waitStep s) := by
  have hrefl := sameExcept_refl { regs := [s.waitReg], wait := true } s
  obtain ⟨k, -, h⟩ | ⟨-, h⟩ := waitStep_cases s
  · rw [h]
    exact sameExcept_setPc (sameExcept_stopWaiting (sameExcept_writeV hrefl List.mem_cons_self _) rfl) _
  · rw [h]; exact hrefl

/-- A step that goes on is a RESET or writes what its event may write. -/
theorem step_next_sameExcept {s t : State} (h : step s = .next t) :
    (nextEvent s = .reset ∧ t = resetCore (taken s)) ∨ ∃ w, EventWrites s w ∧ SameExcept w (taken s) t := by
  obtain hreset | ⟨bytes, he, -, -, rfl⟩ | ⟨-, -, -, rfl⟩ | ⟨i, hruns, hexec⟩ | ⟨he, rfl⟩ | ⟨k, p, he, rfl⟩ |
    ⟨-, rfl⟩ := step_next_cases h
  · exact .inl hreset
  · exact .inr ⟨_, .load he,
      sameExcept_setLoaded (sameExcept_storeBytes (sameExcept_refl _ _) _ _ (List.Subset.refl _)) rfl true⟩
  · exact .inr ⟨_, .wait, waitStep_sameExcept (taken s)⟩
  · exact .inr ⟨_, .run hruns, exec_next_sameExcept (s := taken s) hexec⟩
  · exact .inr ⟨_, .tick he, sameExcept_tick _⟩
  · exact .inr ⟨_, .setKey he, sameExcept_setKey k p _⟩
  · exact .inr ⟨_, .getDisplay, sameExcept_refl _ _⟩

section
variable (s : State) (i : Instr)

theorem mayWrite_keys : (mayWrite s i).keys = false := by cases i <;> rfl

theorem mayWrite_display_iff : (mayWrite s i).display = true ↔ i = .cls ∨ ∃ x y n, i = .drw x y n := by
  cases i <;> simp [mayWrite]

theorem mayWrite_sp_iff : (mayWrite s i).sp = true ↔ (∃ nnn, i = .call nnn) ∨ i = .ret := by
  cases i <;> simp [mayWrite]

theorem mayWrite_slots (hi : ∀ nnn, i ≠ .call nnn) : (mayWrite s i).slots = [] := by
  cases i
  case call nnn => exact absurd rfl (hi nnn)
  all_goals rfl

theorem mayWrite_dt_iff : (mayWrite s i).dt = true ↔ ∃ x, i = .ldDtVx x := by
  cases i <;> simp [mayWrite]

theorem mayWrite_draws_iff : (mayWrite s i).draws = true ↔ ∃ x nn, i = .rnd x nn := by
  cases i <;> simp [mayWrite]

theorem mayWrite_index_iff : (mayWrite s i).index = true ↔
    (∃ nnn, i = .ldI nnn) ∨ (∃ x, i = .addI x) ∨ (∃ x, i = .ldF x) ∨
    (s.cfg.ldstIncrementsI = true ∧ ∃ x, i = .storeRegs x ∨ i = .loadRegs x) := by
  cases i <;> simp [mayWrite]

theorem mem_mayWrite_bytes_iff (a : Nat) : a ∈ (mayWrite s i).bytes ↔
    (∃ x, i = .ldB x ∧ s.i.toNat ≤ a ∧ a ≤ s.i.toNat + 2) ∨
    (∃ x : RegIdx, i = .storeRegs x ∧ s.i.toNat ≤ a ∧ a ≤ s.i.toNat + x.val) := by
  cases i <;> simp [mayWrite, mem_addrRange] <;> omega

end

/-- A part that changed is one the frame lists. -/
theorem listed_of_ne {α : Type} {x y : α} {b : Bool} (h : b = false → x = y) (hne : x ≠ y) : b = true :=
  Bool.not_eq_false _ ▸ mt h hne

/-- Settles O47: SETKEY alone lists the keys. -/
theorem keysChangeOnlyBySetKeyOrReset : Obligations.KeysChangeOnlyBySetKeyOrReset := by
  unfold Obligations.KeysChangeOnlyBySetKeyOrReset
  intro s t h hne
  obtain ⟨hreset, -⟩ | ⟨w, hw, hsame⟩ := step_next_sameExcept h
  · exact .inr hreset
  have hkeys : w.keys = true := listed_of_ne hsame.keys hne
  cases hw with
  | setKey he => exact .inl ⟨_, _, he⟩
  | run => exact absurd (mayWrite_keys s _) (ne_false_of_eq_true hkeys)
  | load | wait | tick | getDisplay => cases hkeys

/-- Settles O48: of the events only an instruction lists the display, and of those 00E0 and DXYN. -/
theorem displayChangesOnlyByItsWriters : Obligations.DisplayChangesOnlyByItsWriters := by
  unfold Obligations.DisplayChangesOnlyByItsWriters
  intro s t h hne
  obtain ⟨hreset, -⟩ | ⟨w, hw, hsame⟩ := step_next_sameExcept h
  · exact .inr (.inr hreset)
  have hdisplay : w.display = true := listed_of_ne hsame.display hne
  cases hw with
  | run hruns =>
    obtain rfl | ⟨x, y, n, rfl⟩ := (mayWrite_display_iff s _).1 hdisplay
    · exact .inl hruns
    · exact .inr (.inl ⟨x, y, n, hruns⟩)
  | load | wait | tick | setKey | getDisplay => cases hdisplay

/-- What a change of SP comes from. -/
theorem step_next_sp {s t : State} (h : step s = .next t) (hne : t.sp ≠ s.sp) :
    (∃ nnn, Runs s (.call nnn)) ∨ Runs s .ret ∨ nextEvent s = .reset := by
  obtain ⟨hreset, -⟩ | ⟨w, hw, hsame⟩ := step_next_sameExcept h
  · exact .inr (.inr hreset)
  have hsp : w.sp = true := listed_of_ne hsame.sp hne
  cases hw with
  | run hruns =>
    obtain ⟨nnn, rfl⟩ | rfl := (mayWrite_sp_iff s _).1 hsp
    · exact .inl ⟨nnn, hruns⟩
    · exact .inr (.inl hruns)
  | load | wait | tick | setKey | getDisplay => cases hsp

/-- What a change of a slot comes from. -/
theorem step_next_stack {s t : State} (h : step s = .next t) (hne : t.stack ≠ s.stack) :
    (∃ nnn, Runs s (.call nnn)) ∨ nextEvent s = .reset := by
  obtain ⟨hreset, -⟩ | ⟨w, hw, hsame⟩ := step_next_sameExcept h
  · exact .inr hreset
  have hslots : w.slots ≠ [] := fun hnil =>
    hne (Vector.ext fun j hj => hsame.slots ⟨j, hj⟩ (hnil ▸ List.not_mem_nil))
  cases hw with
  | run hruns =>
    by_contra hno
    exact hslots (mayWrite_slots s _ fun nnn hi => hno (.inl ⟨nnn, hi ▸ hruns⟩))
  | load | wait | tick | setKey | getDisplay => exact absurd rfl hslots

/-- Settles O49. -/
theorem stackChangesOnlyByCallReturnReset : Obligations.StackChangesOnlyByCallReturnReset := by
  unfold Obligations.StackChangesOnlyByCallReturnReset
  exact fun s t h => ⟨step_next_sp h, step_next_stack h⟩

/-- What a change of DT comes from. -/
theorem step_next_dt {s t : State} (h : step s = .next t) (hne : t.dt ≠ s.dt) :
    (∃ x, Runs s (.ldDtVx x)) ∨ nextEvent s = .tick ∨ nextEvent s = .reset := by
  obtain ⟨hreset, -⟩ | ⟨w, hw, hsame⟩ := step_next_sameExcept h
  · exact .inr (.inr hreset)
  have hdt : w.dt = true := listed_of_ne hsame.dt hne
  cases hw with
  | run hruns =>
    obtain ⟨x, rfl⟩ := (mayWrite_dt_iff s _).1 hdt
    exact .inl ⟨x, hruns⟩
  | tick he => exact .inr (.inl he)
  | load | wait | setKey | getDisplay => cases hdt

/-- Settles O50: the two timers, ST by what a step can do to it. -/
theorem timersChangeOnlyByTheirWriters : Obligations.TimersChangeOnlyByTheirWriters := by
  unfold Obligations.TimersChangeOnlyByTheirWriters
  refine fun s t h => ⟨step_next_dt h, fun hne => ?_⟩
  obtain hst | hruns | ⟨he, -⟩ | hreset := step_next_st h
  · exact absurd hst hne
  · exact .inl hruns
  · exact .inr (.inl he)
  · exact .inr (.inr hreset)

/-- Settles O51: of the events only an instruction lists I. -/
theorem indexChangesOnlyByItsWriters : Obligations.IndexChangesOnlyByItsWriters := by
  unfold Obligations.IndexChangesOnlyByItsWriters
  intro s t h hne
  obtain ⟨hreset, -⟩ | ⟨w, hw, hsame⟩ := step_next_sameExcept h
  · exact .inr (.inr (.inr (.inr hreset)))
  have hindex : w.index = true := listed_of_ne hsame.index hne
  cases hw with
  | run hruns =>
    obtain ⟨nnn, rfl⟩ | ⟨x, rfl⟩ | ⟨x, rfl⟩ | ⟨hinc, x, rfl | rfl⟩ := (mayWrite_index_iff s _).1 hindex
    · exact .inl ⟨nnn, hruns⟩
    · exact .inr (.inl ⟨x, hruns⟩)
    · exact .inr (.inr (.inl ⟨x, hruns⟩))
    · exact .inr (.inr (.inr (.inl ⟨hinc, x, .inl hruns⟩)))
    · exact .inr (.inr (.inr (.inl ⟨hinc, x, .inr hruns⟩)))
  | load | wait | tick | setKey | getDisplay => cases hindex

/-- Settles O52: FX33, FX55 and LOAD list the addresses they store at, and nothing else lists any. -/
theorem memoryChangesOnlyByItsWriters : Obligations.MemoryChangesOnlyByItsWriters := by
  unfold Obligations.MemoryChangesOnlyByItsWriters
  intro s t a h hne
  obtain ⟨hreset, -⟩ | ⟨w, hw, hsame⟩ := step_next_sameExcept h
  · exact .inr (.inr (.inr hreset))
  have ha : a ∈ w.bytes := by_contra fun ha => hne (hsame.bytes a ha)
  cases hw with
  | run hruns =>
    obtain ⟨x, rfl, hrange⟩ | ⟨x, rfl, hrange⟩ := (mem_mayWrite_bytes_iff s _ a).1 ha
    · exact .inl ⟨x, hruns, hrange⟩
    · exact .inr (.inl ⟨x, hruns, hrange⟩)
  | load he => exact .inr (.inr (.inl ⟨_, he, (mem_addrRange _ _ _).1 ha⟩))
  | wait | tick | setKey | getDisplay => exact absurd ha List.not_mem_nil

/-! ### Random bytes and parameters (R23, R108) -/

theorem step_next_cfg {s t : State} (h : step s = .next t) : t.cfg = s.cfg := by
  obtain ⟨-, rfl⟩ | ⟨w, -, hsame⟩ := step_next_sameExcept h
  · rfl
  · exact hsame.cfg

/-- The count of used random bytes changes only where a CXNN runs. -/
theorem step_next_draws {s t : State} (h : step s = .next t) (hno : ¬ ∃ x nn, Runs s (.rnd x nn)) :
    t.draws = s.draws := by
  obtain ⟨-, rfl⟩ | ⟨w, hw, hsame⟩ := step_next_sameExcept h
  · rfl
  refine hsame.draws (Bool.eq_false_iff.2 fun hdraws => ?_)
  cases hw with
  | run hruns =>
    obtain ⟨x, nn, rfl⟩ := (mayWrite_draws_iff s _).1 hdraws
    exact hno ⟨x, nn, hruns⟩
  | load | wait | tick | setKey | getDisplay => cases hdraws

/-- Settles O56. -/
theorem onlyRandomConsumesARandomByte : Obligations.OnlyRandomConsumesARandomByte := by
  unfold Obligations.OnlyRandomConsumesARandomByte
  refine fun s t h => ⟨step_next_cfg h, fun ⟨x, nn, hruns⟩ => ?_, step_next_draws h⟩
  rw [step_of_runs hruns] at h
  cases h; rfl

end Sys2Proof.Machine
end

section
/-! The wait for a key (44_keypad_timers.md R99) and the invariant of a running core (10_state.md R25): that every step
keeps it, event by event. -/

namespace Sys2Proof.Machine

open Sys2Proof.Safety

/-! ### FX0A and the waiting CYCLE (R99) -/

theorem exec_ldVxK_of_key {s : State} {k : KeyIdx} (h : LowestPressed s k) (x : RegIdx) :
    exec (.ldVxK x) s = .next (s.writeV x (keyByte k)).advance := by
  simp only [exec, execLdVxK, (s.firstKey_eq_some_iff k).2 h]

theorem exec_ldVxK_of_no_key {s : State} (h : NoKeyPressed s) (x : RegIdx) :
    exec (.ldVxK x) s = .next (s.startWaiting x) := by
  simp only [exec, execLdVxK, s.firstKey_eq_none_iff.2 h]

theorem waitStep_of_key {s : State} {k : KeyIdx} (h : LowestPressed s k) :
    waitStep s = (s.writeV s.waitReg (keyByte k)).stopWaiting.advance := by
  simp only [waitStep, (s.firstKey_eq_some_iff k).2 h]

theorem waitStep_of_no_key {s : State} (h : NoKeyPressed s) : waitStep s = s := by
  simp only [waitStep, s.firstKey_eq_none_iff.2 h]

theorem cycle_of_waiting {s : State} (hl : s.loaded = true) (hw : s.waiting = true) : cycle s = .next (waitStep s) := by
  simp [cycle, executeCycle, hl, hw]

theorem toNat_readV_keyByte (s : State) (x : RegIdx) (k : KeyIdx) :
    ((s.writeV x (keyByte k)).readV x).toNat = k.val := by
  rw [State.readV_writeV_self, toNat_keyByte]

/-- Settles O40: both look for the lowest pressed key and then write it or wait. -/
theorem keyWaitStoresTheLowestKey : Obligations.KeyWaitStoresTheLowestKey := by
  unfold Obligations.KeyWaitStoresTheLowestKey
  refine ⟨decodesFX_ldVxK, fun s x k h => ?_, fun s x h => ?_, fun s k hl hw h => ?_, fun s hl hw h => ?_⟩
  · exact ⟨_, exec_ldVxK_of_key h x, toNat_readV_keyByte s x k, rfl,
      sameExcept_setPc (sameExcept_writeV (sameExcept_refl _ s) List.mem_cons_self _) _⟩
  · exact ⟨_, exec_ldVxK_of_no_key h x, rfl, rfl, rfl, sameExcept_startWaiting (sameExcept_refl _ s) rfl x⟩
  · refine ⟨waitStep s, cycle_of_waiting hl hw, ?_, ?_, ?_, waitStep_sameExcept s⟩
    · rw [waitStep_of_key h]; exact toNat_readV_keyByte s s.waitReg k
    · rw [waitStep_of_key h]; rfl
    · rw [waitStep_of_key h]; rfl
  · exact (cycle_of_waiting hl hw).trans (congrArg _ (waitStep_of_no_key h))

/-- Waiting for the register that was waited for, entered anew, is the same state. -/
theorem startWaiting_stopWaiting {s : State} (hw : s.waiting = true) : s.stopWaiting.startWaiting s.waitReg = s := by
  rw [State.startWaiting, State.stopWaiting, ← hw]

/-- Settles O41: with W cleared, the CYCLE fetches the FX0A of the invariant, which looks at the same keys. -/
theorem waitingIsReexecutingTheFX0A : Obligations.WaitingIsReexecutingTheFX0A := by
  unfold Obligations.WaitingIsReexecutingTheFX0A
  intro s hinv hw
  obtain ⟨hpc, hword⟩ := hinv.waitingWord hw
  have hl := hinv.waitingLoaded hw
  have hd : decode s.fetchWord = some (.ldVxK s.waitReg) := hword ▸ decode_encode rfl
  have hexec : cycle s.stopWaiting = exec (.ldVxK s.waitReg) s.stopWaiting :=
    cycle_of_decode (s := s.stopWaiting) hl rfl hpc hd
  change cycle s = cycle s.stopWaiting
  rw [cycle_of_waiting hl hw, hexec]
  obtain ⟨k, -, h⟩ | ⟨-, h⟩ := s.firstKey_cases
  · rw [waitStep_of_key h, exec_ldVxK_of_key (s := s.stopWaiting) h]; rfl
  · rw [waitStep_of_no_key h, exec_ldVxK_of_no_key (s := s.stopWaiting) h, startWaiting_stopWaiting hw]

/-! ### What an instruction makes of the parts the invariant speaks of -/

/-- An instruction leaves memory alone or writes a block at I that lies in memory. -/
theorem exec_next_mem {i : Instr} {s t : State} (h : exec i s = .next t) : t.mem = s.mem ∨
    ∃ bs : List Byte, s.i.toNat + bs.length ≤ 4096 ∧ t.mem = Memory.writeBytes s.cfg s.mem s.i.toNat bs := by
  cases i <;> simp only [exec] at h
  case ldB x =>
    obtain ⟨rfl, hin⟩ := withDataRange_next h
    exact .inr ⟨decimalDigits (s.readV x), hin.resolve_left (by decide), rfl⟩
  case storeRegs x =>
    obtain ⟨rfl, hin⟩ := withDataRange_next h
    exact .inr ⟨_, regBlock_length s x ▸ hin.resolve_left (Nat.succ_ne_zero _), rfl⟩
  case ret => obtain ⟨_, rfl⟩ := execRet_next h; exact .inl rfl
  case call => obtain ⟨_, rfl⟩ := execCall_next h; exact .inl rfl
  case drw | loadRegs => obtain ⟨rfl, -⟩ := withDataRange_next h; exact .inl rfl
  case skp | sknp => obtain ⟨c, rfl⟩ := skipOnKey_next h; exact .inl (State.skipIf_mem s c)
  case ldVxK => obtain ⟨k, -, rfl⟩ | ⟨-, rfl⟩ := execLdVxK_next h <;> exact .inl rfl
  case seImm | sneImm | seReg | sneReg => cases h; exact .inl (State.skipIf_mem s _)
  all_goals cases h; exact .inl rfl

theorem exec_next_wf {i : Instr} {s t : State} (h : exec i s = .next t) (hwf : Memory.wf s.cfg s.mem = true) :
    Memory.wf t.cfg t.mem = true := by
  rw [(exec_next_sameExcept h).cfg]
  obtain hmem | ⟨bs, hlen, hmem⟩ := exec_next_mem h <;> rw [hmem]
  · exact hwf
  · exact Memory.wf_writeBytes s.cfg hwf _ bs hlen

/-- Every live stack entry is the address past a call (R25). -/
def LiveSlots (s : State) : Prop :=
  ∀ j : Fin 16, j.val < s.sp.val → 0x0002 ≤ (s.stack[j.val]).toNat ∧ (s.stack[j.val]).toNat ≤ 0x1000

theorem pcAfter_le {s : State} {i : Instr} {pc : Word} (h : PcAfter s i pc) (hpc : s.pc.toNat ≤ 0xFFE)
    (hlive : LiveSlots s) : pc.toNat ≤ 0x10FE := by
  cases h with
  | next => bv_omega
  | skip => bv_omega
  | jp | call => rw [toNat_addrOf]; omega
  | jpV0 => rw [toNat_jumpTarget]; omega
  | ret j hj => have := (hlive j hj).2; omega
  | wait => omega

/-- The pushed address is PC + 2, and PC is at most 0xFFE; a pop leaves fewer entries; nothing else touches
the stack. -/
theorem exec_next_liveSlots {i : Instr} {s t : State} (h : exec i s = .next t) (hpc : s.pc.toNat ≤ 0xFFE)
    (hlive : LiveSlots s) : LiveSlots t := by
  intro j hj
  by_cases hstack : (∃ nnn, i = .call nnn) ∨ i = .ret
  · obtain ⟨nnn, rfl⟩ | rfl := hstack
    · obtain ⟨hsp, rfl⟩ := execCall_next h
      change j.val < s.sp.val + 1 at hj
      rw [State.setPc_stack, Vector.getElem_set]
      split
      · bv_omega
      · exact hlive j (by omega)
    · obtain ⟨hsp, rfl⟩ := execRet_next h
      change j.val < s.sp.val - 1 at hj
      exact hlive j (by omega)
  · have hsame := exec_next_sameExcept h
    have hsp : t.sp = s.sp := hsame.sp (Bool.eq_false_iff.2 fun hw => hstack ((mayWrite_sp_iff s i).1 hw))
    have hnil := mayWrite_slots s i fun nnn hi => hstack (.inl ⟨nnn, hi⟩)
    rw [hsame.slots j (hnil ▸ List.not_mem_nil)]
    exact hlive j (hsp ▸ hj)

theorem mayWrite_wait_iff (s : State) (i : Instr) : (mayWrite s i).wait = true ↔ ∃ x, i = .ldVxK x := by
  cases i <;> simp [mayWrite]

/-- A core that did not wait waits after an instruction only if that was an FX0A, at which PC stays. -/
theorem exec_next_waiting {i : Instr} {s t : State} (h : exec i s = .next t) (hs : s.waiting = false)
    (ht : t.waiting = true) : ∃ x, i = .ldVxK x ∧ t = s.startWaiting x := by
  have hwait : (mayWrite s i).wait = true :=
    listed_of_ne (fun hf => ((exec_next_sameExcept h).wait hf).1) (by rw [ht, hs]; decide)
  obtain ⟨x, rfl⟩ := (mayWrite_wait_iff s i).1 hwait
  obtain ⟨k, -, rfl⟩ | ⟨-, rfl⟩ := execLdVxK_next h
  · exact absurd (hs.symm.trans ht) Bool.false_ne_true
  · exact ⟨x, rfl, rfl⟩

/-! ### The invariant, event by event (R25) -/

/-- RESET brings the invariant about, whatever held before. -/
theorem coreInv_resetCore (s : State) : CoreInv (resetCore s) where
  memCanonical := rfl
  pcBound := (by decide : (0x0200#16).toNat ≤ 0x10FE)
  liveSlots _ hj := absurd hj (Nat.not_lt_zero _)
  waitingWord := nofun
  waitingLoaded := nofun

/-- Settles O3: the reset state is what RESET makes of itself. -/
theorem resetStateMeetsTheInvariant : Obligations.ResetStateMeetsTheInvariant := coreInv_resetCore State.reset

/-- No core waits before its LOAD, so the wait's word is not in question. -/
theorem coreInv_load {s : State} (h : CoreInv s) (hl : s.loaded = false) {bytes : List Byte}
    (hlen : bytes.length ≤ 3584) : CoreInv { s.storeBytes 0x200 bytes with loaded := true } where
  memCanonical := Memory.wf_writeBytes s.cfg h.memCanonical 0x200 bytes (by omega)
  pcBound := h.pcBound
  liveSlots := h.liveSlots
  waitingWord hw := absurd (hl.symm.trans (h.waitingLoaded hw)) Bool.false_ne_true
  waitingLoaded _ := rfl

/-- A waiting CYCLE goes on past the FX0A, which lies in memory, or changes nothing. -/
theorem coreInv_waitStep {s : State} (h : CoreInv s) (hw : s.waiting = true) : CoreInv (waitStep s) := by
  obtain ⟨hpc, -⟩ := h.waitingWord hw
  obtain ⟨k, -, hstep⟩ | ⟨-, hstep⟩ := waitStep_cases s <;> rw [hstep]
  · exact { h with
      pcBound := by change (s.pc + 2).toNat ≤ _; bv_omega
      waitingWord := nofun
      waitingLoaded := nofun }
  · exact h

theorem coreInv_exec {s t : State} {i : Instr} (h : CoreInv s) (hruns : Runs s i)
    (hexec : exec i (taken s) = .next t) : CoreInv t where
  memCanonical := exec_next_wf hexec h.memCanonical
  pcBound := pcAfter_le (exec_next_pcAfter hexec) hruns.inRange h.liveSlots
  liveSlots := exec_next_liveSlots hexec hruns.inRange h.liveSlots
  waitingWord hw := by
    obtain ⟨x, rfl, rfl⟩ := exec_next_waiting hexec hruns.notWaiting hw
    obtain ⟨-, henc⟩ := encodes_of_decode hruns.decoded
    exact ⟨hruns.inRange, henc.symm⟩
  waitingLoaded hw := by
    obtain ⟨x, rfl, rfl⟩ := exec_next_waiting hexec hruns.notWaiting hw
    exact hruns.loaded

/-- Settles O4: RESET brings the invariant about, and every other event keeps it. -/
theorem everyStepKeepsTheInvariant : Obligations.EveryStepKeepsTheInvariant := by
  unfold Obligations.EveryStepKeepsTheInvariant
  intro s t hs h
  have htaken : CoreInv (taken s) := { hs with }
  obtain ⟨-, rfl⟩ | ⟨bytes, -, hl, hlen, rfl⟩ | ⟨-, -, hw, rfl⟩ | ⟨i, hruns, hexec⟩ | ⟨-, rfl⟩ |
    ⟨k, p, -, rfl⟩ | ⟨-, rfl⟩ := step_next_cases h
  · exact coreInv_resetCore _
  · exact coreInv_load htaken hl hlen
  · exact coreInv_waitStep htaken hw
  · exact coreInv_exec hs hruns hexec
  · exact { htaken with }
  · exact { htaken with }
  · exact htaken

end Sys2Proof.Machine
end

section
/-! What an instruction does not read (10_state.md R16, R17, R20, R21; 44_keypad_timers.md R102): with other contents in
a part that it neither reads nor writes, it does the same and leaves those contents. -/

namespace Sys2Proof.Machine

open Sys2Proof.Safety

/-- Other contents for some of ST, the call stack with SP, the display and the keys; `none` leaves a part alone. -/
structure Overlay where
  st : Option Byte := none
  stack : Option (Vector Word 16 × Fin 17) := none
  display : Option Display := none
  keys : Option (Vector Bool 16) := none

/-- The state with those contents put in. -/
def Overlay.on (o : Overlay) (s : State) : State :=
  { s with
    st := o.st.getD s.st
    stack := (o.stack.map Prod.fst).getD s.stack
    sp := (o.stack.map Prod.snd).getD s.sp
    display := o.display.getD s.display
    keys := o.keys.getD s.keys }

/-- The overlay leaves alone the parts of these four that the instruction reads or writes. -/
def Overlay.Avoids (o : Overlay) : Instr → Prop
  | .ldStVx _ => o.st = none
  | .ret | .call _ => o.stack = none
  | .cls | .drw _ _ _ => o.display = none
  | .skp _ | .sknp _ | .ldVxK _ => o.keys = none
  | _ => True

theorem Overlay.skipIf_on (o : Overlay) (s : State) (c : Bool) : (o.on s).skipIf c = o.on (s.skipIf c) := by
  cases c <;> rfl

theorem Overlay.skipOnKey_on (o : Overlay) (ho : o.keys = none) (i : Instr) (x : RegIdx) (level : Bool) (s : State) :
    skipOnKey i x level (o.on s) = mapNext o.on (skipOnKey i x level s) := by
  have hkeys : (o.on s).keys = s.keys := by rw [Overlay.on, ho]; rfl
  by_cases hv : (s.readV x).toNat < 16
  · rw [skipOnKey_of_key (k := ⟨_, hv⟩) rfl, skipOnKey_of_key (s := o.on s) (k := ⟨_, hv⟩) rfl, hkeys, o.skipIf_on]
    rfl
  · have hnone : 15 < (s.readV x).toNat := by omega
    rw [skipOnKey_of_no_key hnone, skipOnKey_of_no_key (s := o.on s) hnone]
    rfl

theorem Overlay.loadBlock_on (o : Overlay) (s : State) (x : RegIdx) :
    loadBlock (o.on s) x (o.on s).i.toNat = loadBlock s x s.i.toNat := rfl

/-- The range check depends on I and PC alone, which no overlay touches. -/
theorem Overlay.exec_on_of_withDataRange {o : Overlay} {i : Instr} {n : Nat} {s t : State}
    (hs : exec i s = withDataRange i n s (.next t))
    (ho : exec i (o.on s) = withDataRange i n (o.on s) (.next (o.on t))) :
    exec i (o.on s) = mapNext o.on (exec i s) := by
  rw [hs, ho]
  exact withDataRange_mapNext o.on (s := s) (u := o.on s) rfl rfl (.next t)

/-- An instruction does the same with other contents in the parts it has nothing to do with, and leaves them there. -/
theorem exec_overlay {o : Overlay} {i : Instr} (ho : o.Avoids i) (s : State) :
    exec i (o.on s) = mapNext o.on (exec i s) := by
  obtain ⟨ost, ostack, odisplay, okeys⟩ := o
  cases i
  case ldStVx | cls => cases ho; rfl
  case ret =>
    cases ho
    by_cases hsp : 0 < s.sp.val
    · rw [exec_ret_of_pos s hsp, exec_ret_of_pos (Overlay.on ⟨ost, none, odisplay, okeys⟩ s) hsp]; rfl
    · have hempty : s.sp.val = 0 := by omega
      rw [exec_ret_of_empty s hempty, exec_ret_of_empty (Overlay.on ⟨ost, none, odisplay, okeys⟩ s) hempty]; rfl
  case call nnn =>
    cases ho
    by_cases hsp : s.sp.val < 16
    · rw [exec_call_of_lt s nnn hsp, exec_call_of_lt (Overlay.on ⟨ost, none, odisplay, okeys⟩ s) nnn hsp]; rfl
    · have hfull : s.sp.val = 16 := by omega
      rw [exec_call_of_full s nnn hfull, exec_call_of_full (Overlay.on ⟨ost, none, odisplay, okeys⟩ s) nnn hfull]; rfl
  case ldVxK x =>
    cases ho
    obtain ⟨k, -, h⟩ | ⟨-, h⟩ := s.firstKey_cases
    · rw [exec_ldVxK_of_key h, exec_ldVxK_of_key (s := Overlay.on ⟨ost, ostack, odisplay, none⟩ s) h]; rfl
    · rw [exec_ldVxK_of_no_key h, exec_ldVxK_of_no_key (s := Overlay.on ⟨ost, ostack, odisplay, none⟩ s) h]; rfl
  case skp x => exact Overlay.skipOnKey_on _ ho (.skp x) x true s
  case sknp x => exact Overlay.skipOnKey_on _ ho (.sknp x) x false s
  case drw => cases ho; exact Overlay.exec_on_of_withDataRange rfl rfl
  case ldB | storeRegs => exact Overlay.exec_on_of_withDataRange rfl rfl
  case loadRegs x =>
    refine Overlay.exec_on_of_withDataRange rfl ?_
    rw [exec, execLoadRegs, Overlay.loadBlock_on]
    generalize loadBlock s x s.i.toNat = v
    rfl
  case seImm | sneImm | seReg | sneReg => exact congrArg Host.Outcome.next (Overlay.skipIf_on _ s _)
  all_goals rfl

/-- Settles O57: an overlay of ST, which FX18 writes without reading it. -/
theorem noInstructionReadsTheSoundTimer : Obligations.NoInstructionReadsTheSoundTimer := by
  unfold Obligations.NoInstructionReadsTheSoundTimer
  intro i s b
  constructor
  · intro hi
    refine exec_overlay (o := { st := some b }) ?_ s
    cases i
    case ldStVx x => exact absurd rfl (hi x)
    case ret | call | cls | drw | skp | sknp | ldVxK => exact rfl
    all_goals exact True.intro
  · rintro ⟨x, rfl⟩; rfl

/-- Settles O58: three overlays, each of a part that its own instructions alone do not avoid. -/
theorem stackDisplayKeysAreReadOnlyByTheirs : Obligations.StackDisplayKeysAreReadOnlyByTheirs := by
  unfold Obligations.StackDisplayKeysAreReadOnlyByTheirs
  intro i s stack sp d k
  refine ⟨?_, ?_, ?_⟩
  · rintro ⟨hret, hcall⟩
    refine exec_overlay (o := { stack := some (stack, sp) }) ?_ s
    cases i
    case ret => exact absurd rfl hret
    case call nnn => exact absurd rfl (hcall nnn)
    case ldStVx | cls | drw | skp | sknp | ldVxK => exact rfl
    all_goals exact True.intro
  · rintro ⟨hcls, hdrw⟩
    refine exec_overlay (o := { display := some d }) ?_ s
    cases i
    case cls => exact absurd rfl hcls
    case drw x y n => exact absurd rfl (hdrw x y n)
    case ldStVx | ret | call | skp | sknp | ldVxK => exact rfl
    all_goals exact True.intro
  · rintro ⟨hskp, hsknp, hldVxK⟩
    refine exec_overlay (o := { keys := some k }) ?_ s
    cases i
    case skp x => exact absurd rfl (hskp x)
    case sknp x => exact absurd rfl (hsknp x)
    case ldVxK x => exact absurd rfl (hldVxK x)
    case ldStVx | ret | call | cls | drw => exact rfl
    all_goals exact True.intro

end Sys2Proof.Machine
end

section
/-! Canonical memories, and what instructions do one after another: a store and a load or a fetch, a call and a return,
a drawing and the same drawing (20_memory.md, 40_control_flow.md, 42_index_memory.md, 43_display.md); the reset state and
CXNN. -/

namespace Sys2Proof.Machine

open Sys2Proof.Safety

/-- Settles O1: the reset state is what RESET makes of itself. -/
theorem resetStateHoldsTheStatedValues : Obligations.ResetStateHoldsTheStatedValues := atReset_resetCore State.reset

/-! ### Canonical memories (R36) -/

/-- The lowest listed address of a memory in canonical form reads otherwise than after RESET. -/
theorem Memory.read_head_ne (p : Config.Params) {c : Host.Cell} {m : Memory} (h : Memory.wf p (c :: m) = true) :
    Memory.read p (c :: m) c.1 ≠ resetByte p c.1 := by
  obtain ⟨-, hne, -, -⟩ := (Memory.wf_cons p c m).1 h
  rwa [Memory.read_cons, if_pos rfl]

/-- No address below the lowest listed one reads otherwise than after RESET. -/
theorem Memory.read_below_head (p : Config.Params) {c : Host.Cell} {m : Memory} (h : Memory.wf p (c :: m) = true)
    {a : Nat} (ha : a < c.1) : Memory.read p (c :: m) a = resetByte p a := by
  obtain ⟨-, -, hall, -⟩ := (Memory.wf_cons p c m).1 h
  refine Memory.read_of_lt_all p fun d hd => ?_
  obtain rfl | hd := List.mem_cons.1 hd
  · exact ha
  · exact Nat.lt_trans ha (hall d hd)

/-- Of two memories that read alike the second does not start above the first: at the first one's lowest address it would
read as after RESET. -/
theorem Memory.head_addr_le (p : Config.Params) {c d : Host.Cell} {m n : Memory} (hc : Memory.wf p (c :: m) = true)
    (hd : Memory.wf p (d :: n) = true) (hread : ∀ a, Memory.read p (c :: m) a = Memory.read p (d :: n) a) :
    d.1 ≤ c.1 := by
  by_contra hlt
  exact Memory.read_head_ne p hc ((hread c.1).trans (Memory.read_below_head p hd (Nat.lt_of_not_le hlt)))

/-- The cells after the lowest read alike too: at the lowest address itself they read as after RESET. -/
theorem Memory.read_tail_eq (p : Config.Params) {k : Nat} {b : Byte} {m n : Memory}
    (hm : Memory.wf p ((k, b) :: m) = true) (hn : Memory.wf p ((k, b) :: n) = true)
    (hread : ∀ a, Memory.read p ((k, b) :: m) a = Memory.read p ((k, b) :: n) a) (a : Nat) :
    Memory.read p m a = Memory.read p n a := by
  obtain ⟨-, -, hallm, -⟩ := (Memory.wf_cons p _ m).1 hm
  obtain ⟨-, -, halln, -⟩ := (Memory.wf_cons p _ n).1 hn
  by_cases ha : k = a
  · subst ha
    rw [Memory.read_of_lt_all p hallm, Memory.read_of_lt_all p halln]
  · simpa only [Memory.read_cons, if_neg ha] using hread a

theorem Memory.eq_of_read_eq (p : Config.Params) {m n : Memory} (hm : Memory.wf p m = true) (hn : Memory.wf p n = true)
    (hread : ∀ a, Memory.read p m a = Memory.read p n a) : m = n := by
  induction m generalizing n with
  | nil =>
    cases n with
    | nil => rfl
    | cons d n => exact absurd (hread d.1).symm (Memory.read_head_ne p hn)
  | cons c m ih =>
    cases n with
    | nil => exact absurd (hread c.1) (Memory.read_head_ne p hm)
    | cons d n =>
      have haddr : c.1 = d.1 :=
        Nat.le_antisymm (Memory.head_addr_le p hn hm fun a => (hread a).symm) (Memory.head_addr_le p hm hn hread)
      have hbyte : c.2 = d.2 := by
        have h := hread c.1
        rwa [Memory.read_cons, Memory.read_cons, if_pos rfl, if_pos haddr.symm] at h
      obtain rfl : c = d := Prod.ext haddr hbyte
      obtain ⟨-, -, -, hm'⟩ := (Memory.wf_cons p c m).1 hm
      obtain ⟨-, -, -, hn'⟩ := (Memory.wf_cons p c n).1 hn
      rw [ih hm' hn' (Memory.read_tail_eq p hm hn hread)]

/-- Settles O5. -/
theorem canonicalMemoriesThatReadAlikeAreEqual : Obligations.CanonicalMemoriesThatReadAlikeAreEqual := by
  unfold Obligations.CanonicalMemoriesThatReadAlikeAreEqual
  exact fun p _ _ => Memory.eq_of_read_eq p

/-! ### Stored bytes, loaded back and fetched (R41, R88 to R90) -/

/-- An FX55 that goes on stored its registers at I, in memory. -/
theorem exec_storeRegs_next {s t : State} {x : RegIdx} (hwf : Memory.wf s.cfg s.mem = true)
    (h : exec (.storeRegs x) s = .next t) :
    s.i.toNat + x.val ≤ 0xFFF ∧ ∀ k : RegIdx, k ≤ x → t.byteAt (s.i.toNat + k.val) = s.readV k := by
  obtain ⟨-, hin⟩ := withDataRange_next h
  obtain ⟨-, hstores, -⟩ := storeRegistersAscendFromIndex
  obtain ⟨t', ht', hbytes, -⟩ := hstores s x hwf (by omega)
  cases ht'.symm.trans h
  exact ⟨by omega, hbytes⟩

/-- Settles O33: the registers stored are the bytes loaded. -/
theorem storeThenLoadRestoresTheRegisters : Obligations.StoreThenLoadRestoresTheRegisters := by
  unfold Obligations.StoreThenLoadRestoresTheRegisters
  intro s t u x hwf h hmem hcfg hi
  obtain ⟨hin, hbytes⟩ := exec_storeRegs_next hwf h
  obtain ⟨-, hloads, -⟩ := loadRegistersAscendFromIndex
  obtain ⟨w, hw, hregs, -⟩ := hloads u x (hi ▸ hin)
  refine ⟨w, hw, fun k hk => ?_⟩
  have hbyte : u.byteAt (s.i.toNat + k.val) = t.byteAt (s.i.toNat + k.val) := by
    rw [State.byteAt, State.byteAt, hmem, hcfg]
  rw [hregs k hk, hi, hbyte, hbytes k hk]

/-- Settles O34: the word at PC is made of the two bytes stored there. -/
theorem storedBytesAreFetchedNext : Obligations.StoredBytesAreFetchedNext := by
  unfold Obligations.StoredBytesAreFetchedNext
  refine fun s t x pc hwf => ⟨fun h k k' hk' hle hpc => ?_, fun h hpc => ?_⟩
  · obtain ⟨-, hbytes⟩ := exec_storeRegs_next hwf h
    have hk : k ≤ x := Nat.le_trans (hk' ▸ Nat.le_succ k.val) hle
    change wordOfBytes (t.byteAt pc.toNat) (t.byteAt (pc.toNat + 1)) = _
    rw [hpc, hbytes k hk, Nat.add_assoc, ← hk', hbytes k' hle]
  · obtain ⟨-, hin⟩ := withDataRange_next h
    obtain ⟨-, hdigits, -⟩ := bcdStoresThreeDigits
    obtain ⟨t', ht', hhundreds, htens, -⟩ := hdigits s x hwf (by omega)
    cases ht'.symm.trans h
    change (wordOfBytes (t.byteAt pc.toNat) (t.byteAt (pc.toNat + 1))).toNat = _
    rw [toNat_wordOfBytes, hpc, hhundreds, htens]

/-! ### A call and its return (R61, R63) -/

/-- Settles O19: the return pops the slot that the call pushed. -/
theorem callThenReturnComesBack : Obligations.CallThenReturnComesBack := by
  unfold Obligations.CallThenReturnComesBack
  intro s t u nnn h hsp hstack
  obtain ⟨hlt, rfl⟩ := execCall_next h
  have hdepth : u.sp.val = s.sp.val + 1 := congrArg Fin.val hsp
  have hret := exec_ret_of_pos u (by omega)
  refine ⟨_, hret, ?_, Fin.ext (by change u.sp.val - 1 = _; omega)⟩
  simp only [State.setPc_pc, hstack, hdepth, Nat.add_sub_cancel, State.setPc_stack, Vector.getElem_set_self]

/-! ### CXNN (R83) -/

/-- Settles O27: a result without a flag, after one byte is used up. -/
theorem randomIsMaskedByNN : Obligations.RandomIsMaskedByNN := by
  unfold Obligations.RandomIsMaskedByNN
  refine ⟨decodesFXB_rnd, fun s x nn => ⟨_, rfl, fun b _ => ?_, rfl, rfl, exec_next_sameExcept (i := .rnd x nn) rfl⟩⟩
  rw [State.advance_readV, State.readV_writeV_self, BitVec.getLsbD_and]

/-! ### The same drawing twice (R95) -/

/-- Inverting the same pixels twice restores the display, and the second time a pixel was found on iff the first time it
was found off. -/
theorem Inverts.twice {P : Fin 32 → Fin 64 → Prop} {a b c : Display} {f g : Bool} (hab : Inverts P (a, false) (b, f))
    (hbc : Inverts P (b, false) (c, g)) : c = a ∧ (g = true ↔ ∃ py px, P py px ∧ a.pixel py px = false) := by
  constructor
  · apply Display.ext_pixel
    intro py px
    by_cases hP : P py px
    · rw [hbc.inside py px hP, hab.inside py px hP, Bool.not_not]
    · rw [hbc.outside py px hP, hab.outside py px hP]
  · rw [hbc.collision, or_iff_right Bool.false_ne_true]
    exact exists₂_congr fun py px => and_congr_right fun hP => by rw [hab.inside py px hP, Bool.not_eq_true']

/-- A DXYN that goes on inverted the covered pixels and left the collision in VF. -/
theorem exec_drw_next {s t : State} {x y : RegIdx} {n : Nat} (hn : n < 16) (h : exec (.drw x y n) s = .next t) :
    ∃ f, Inverts (SpriteCovers s x y n) (s.display, false) (t.display, f) ∧ t.readV VF = flagByte f := by
  obtain ⟨rfl, -⟩ := withDataRange_next h
  exact ⟨_, drawSprite_inverts s x y (by omega), State.readV_writeV_self _ _ _⟩

theorem flagByte_eq_one_iff (b : Bool) : flagByte b = 1 ↔ b = true := by cases b <;> decide

/-- The pixels a sprite covers rest on its corner, I and memory. -/
theorem spriteCovers_congr {s t : State} {x y : RegIdx} (hx : t.readV x = s.readV x) (hy : t.readV y = s.readV y)
    (hi : t.i = s.i) (hbytes : ∀ a, t.byteAt a = s.byteAt a) (n : Nat) :
    SpriteCovers t x y n = SpriteCovers s x y n := by
  unfold SpriteCovers
  simp only [hx, hy, hi, hbytes]

/-- Settles O37: the second drawing finds the corner, I and the sprite as the first did, so it inverts the same
pixels. -/
theorem drawingTwiceRestoresTheDisplay : Obligations.DrawingTwiceRestoresTheDisplay := by
  unfold Obligations.DrawingTwiceRestoresTheDisplay
  intro s t x y n hn h hxy
  have hsame : SameExcept { regs := [VF], display := true } s t := exec_next_sameExcept h
  have hi : t.i = s.i := hsame.index rfl
  have hreg : ∀ r : RegIdx, r ≠ VF ∨ t.readV VF = s.readV VF → t.readV r = s.readV r := by
    intro r hr
    by_cases hvf : r = VF
    · exact hvf ▸ hr.resolve_left (absurd hvf)
    · exact hsame.regs r (mt List.mem_singleton.1 hvf)
  have hcovers := spriteCovers_congr (hreg x (hxy.imp_left And.left)) (hreg y (hxy.imp_left And.right)) hi
    (fun a => hsame.bytes a List.not_mem_nil) n
  obtain ⟨-, hin⟩ := withDataRange_next h
  obtain ⟨u, hu⟩ : ∃ u, exec (.drw x y n) t = .next u := ⟨_, withDataRange_of_inRange (hi ▸ hin)⟩
  obtain ⟨f, hst, -⟩ := exec_drw_next hn h
  obtain ⟨g, htu, hvf⟩ := exec_drw_next hn hu
  obtain ⟨hdisplay, hcollision⟩ := hst.twice (hcovers ▸ htu)
  exact ⟨u, hu, hdisplay, by rw [hvf, flagByte_eq_one_iff, hcollision]⟩

end Sys2Proof.Machine
end
